-- ==== Sys2Proof/Word.lean ====
section
/-! DEFINITION. The widths of the machine's values (00_scope.md R7, R8; 30_encoding.md R82). -/

namespace Sys2Proof

/-- A memory cell or a general register: 8 bits (20_memory.md R60, 10_state.md R20). -/
abbrev Byte := BitVec 8

/-- `I`, `pc`, a call stack entry, `fault_pc`, an instruction word: 16 bits (00_scope.md R7). -/
abbrev Word := BitVec 16

/-- A 4-bit decode field: a register index `x` or `y`, a row count `n`, a key (30_encoding.md R82). -/
abbrev Nibble := BitVec 4

/-- The 12-bit address field `nnn` (30_encoding.md R82). -/
abbrev Addr := BitVec 12

/-- The flag register VF is `V[0xF]` (10_state.md R22). -/
def flagReg : Nibble := 0xF#4

/-- `MEM_SIZE` (00_scope.md R7). -/
def memSize : Nat := 4096

/-- `PROG_BASE`, the entry point (00_scope.md R7). -/
def progBase : Nat := 512

/-- `PROG_MAX`, the largest image (00_scope.md R7). -/
def progMax : Nat := 3584

end Sys2Proof
end

