-- ==== Sys2Proof/Config.lean ====
section
/-! DEFINITION. What an implementation fixes (the three parameters of 00_scope.md R7) and the free
values: the inputs `rnd` and `key` that the host supplies with each STEP (10_state.md R54, R55). -/

namespace Sys2Proof

/-- The implementation parameters a model takes as arguments (00_scope.md R7, D3, D4, D17). `State`
carries them, because the host's `step` takes nothing else; no operation writes them (log entry 1). -/
structure Params where
  /-- `STACK_DEPTH`: how many return addresses the call stack holds. -/
  stackDepth : Nat
  /-- `SELF_JUMP_HALT`: whether `1nnn` to its own address sets `halted`. -/
  selfJumpHalt : Bool
  /-- `KEY_OPS`: whether `Ex9E`, `ExA1` and `Fx0A` are instructions. -/
  keyOps : Bool
deriving DecidableEq, Repr

/-- The default parameters of 00_scope.md R7. -/
def defaultParams : Params :=
  { stackDepth := 16, selfJumpHalt := true, keyOps := true }

/-- The inputs of one STEP transaction (10_state.md R51): a random byte and a key, or no key. -/
structure StepInput where
  rnd : Byte
  key : Option Nibble
deriving DecidableEq, Repr

/-- FREE VALUE (log entry 2): the random byte the host supplies with the STEP of this number, where
the state lists none. "The block assumes nothing of the value" (10_state.md R54). -/
opaque Config.rndInput : Nat → Byte

/-- FREE VALUE (log entry 2): the key the host reports with the STEP of this number, where the state
lists none (10_state.md R55). -/
opaque Config.keyInput : Nat → Option Nibble

end Sys2Proof
end

