-- ==== Sys2Proof/Syntax.lean ====
section
/-! DEFINITION. The instructions: one constructor per row of spec/opcode_table.json, in the table's
order, with the fields its rule names (30_encoding.md R83, R84, R100). A bit the decoder ignores
(D8, D9) is no field. -/

namespace Sys2Proof

/-- The 30 instructions of 30_encoding.md R100. -/
inductive Instr where
  /-- `00E0` CLS. -/
  | cls
  /-- `00EE` RET. -/
  | ret
  /-- `1nnn` JP nnn. -/
  | jp (nnn : Addr)
  /-- `2nnn` CALL nnn. -/
  | call (nnn : Addr)
  /-- `3xnn` SE Vx, nn. -/
  | seImm (x : Nibble) (nn : Byte)
  /-- `4xnn` SNE Vx, nn. -/
  | sneImm (x : Nibble) (nn : Byte)
  /-- `5xyn` SE Vx, Vy. -/
  | seReg (x y : Nibble)
  /-- `6xnn` LD Vx, nn. -/
  | ldImm (x : Nibble) (nn : Byte)
  /-- `7xnn` ADD Vx, nn. -/
  | addImm (x : Nibble) (nn : Byte)
  /-- `8xy0` LD Vx, Vy. -/
  | ldReg (x y : Nibble)
  /-- `8xy1` OR Vx, Vy. -/
  | orReg (x y : Nibble)
  /-- `8xy2` AND Vx, Vy. -/
  | andReg (x y : Nibble)
  /-- `8xy3` XOR Vx, Vy. -/
  | xorReg (x y : Nibble)
  /-- `8xy4` ADD Vx, Vy. -/
  | addReg (x y : Nibble)
  /-- `8xy5` SUB Vx, Vy. -/
  | subReg (x y : Nibble)
  /-- `8xy6` SHR Vx, Vy. -/
  | shrReg (x y : Nibble)
  /-- `8xy7` SUBN Vx, Vy. -/
  | subnReg (x y : Nibble)
  /-- `8xyE` SHL Vx, Vy. -/
  | shlReg (x y : Nibble)
  /-- `9xyn` SNE Vx, Vy. -/
  | sneReg (x y : Nibble)
  /-- `Annn` LD I, nnn. -/
  | ldI (nnn : Addr)
  /-- `Bnnn` JP V0, nnn. -/
  | jpV0 (nnn : Addr)
  /-- `Cxnn` RND Vx, nn. -/
  | rnd (x : Nibble) (nn : Byte)
  /-- `Dxyn` DRW Vx, Vy, n. -/
  | drw (x y n : Nibble)
  /-- `Ex9E` SKP Vx (`KEY_OPS` only). -/
  | skp (x : Nibble)
  /-- `ExA1` SKNP Vx (`KEY_OPS` only). -/
  | sknp (x : Nibble)
  /-- `Fx0A` LD Vx, K (`KEY_OPS` only). -/
  | ldKey (x : Nibble)
  /-- `Fx1E` ADD I, Vx. -/
  | addI (x : Nibble)
  /-- `Fx33` LD B, Vx. -/
  | ldBcd (x : Nibble)
  /-- `Fx55` LD [I], Vx. -/
  | storeRegs (x : Nibble)
  /-- `Fx65` LD Vx, [I]. -/
  | loadRegs (x : Nibble)
deriving DecidableEq, Repr

end Sys2Proof
end

