-- ==== Sys2Proof/WellFormed.lean ====
section
/-! DEFINITION. Which instruction terms are instructions of the block. The operand fields have the
encoding's own widths, so every operand value is legal (10_state.md R20, 30_encoding.md R84); the one
check is the `KEY_OPS` gate of 44_input.md R200. -/

namespace Sys2Proof

/-- Whether the instruction belongs to the key family of 44_input.md R200. -/
def Instr.isKeyOp : Instr → Bool
  | .skp _ => true
  | .sknp _ => true
  | .ldKey _ => true
  | .cls => false
  | .ret => false
  | .jp _ => false
  | .call _ => false
  | .seImm _ _ => false
  | .sneImm _ _ => false
  | .seReg _ _ => false
  | .ldImm _ _ => false
  | .addImm _ _ => false
  | .ldReg _ _ => false
  | .orReg _ _ => false
  | .andReg _ _ => false
  | .xorReg _ _ => false
  | .addReg _ _ => false
  | .subReg _ _ => false
  | .shrReg _ _ => false
  | .subnReg _ _ => false
  | .shlReg _ _ => false
  | .sneReg _ _ => false
  | .ldI _ => false
  | .jpV0 _ => false
  | .rnd _ _ => false
  | .drw _ _ _ => false
  | .addI _ => false
  | .ldBcd _ => false
  | .storeRegs _ => false
  | .loadRegs _ => false

/-- An instruction is well-formed unless it is a key instruction and `KEY_OPS` is false: then its
word is an unrecognized encoding (44_input.md R200). -/
def Instr.wellFormed (keyOps : Bool) (i : Instr) : Bool :=
  keyOps || !i.isKeyOp

end Sys2Proof
end

