-- ==== Sys2Proof/Decode.lean ====
section
/-! DEFINITION. From bytes to instructions and back (30_encoding.md R80 to R102): the field
extraction, the decoder, total on any bytes and refusing by name, the encoder, and the opcode map's
`match` and `mask` columns. -/

namespace Sys2Proof

/-- Why a sequence of bytes is no instruction: the unrecognized space of 30_encoding.md R102, one
name for each family that has one, and a sequence too short for a word. None of them is a fault of
the block: an unrecognized word is a no-op (R101). -/
inductive DecodeError where
  /-- Family 0 with a low byte other than 0xE0 and 0xEE. -/
  | unassigned0 (w : Word)
  /-- Family 8 with `n` 8 to 0xD or 0xF (41_alu.md R143). -/
  | unassigned8 (w : Word)
  /-- Family E without a key instruction. -/
  | unassignedE (w : Word)
  /-- Family F with an unassigned function byte. -/
  | unassignedF (w : Word)
  /-- Fewer than two bytes; the fetch never gives this (30_encoding.md R80, R91). -/
  | truncated
deriving DecidableEq, Repr

/-- `family = w[15:12]` (30_encoding.md R82). -/
def fieldFamily (w : Word) : Nibble := w.extractLsb' 12 4

/-- `x = w[11:8]` (30_encoding.md R82). -/
def fieldX (w : Word) : Nibble := w.extractLsb' 8 4

/-- `y = w[7:4]` (30_encoding.md R82). -/
def fieldY (w : Word) : Nibble := w.extractLsb' 4 4

/-- `n = w[3:0]` (30_encoding.md R82). -/
def fieldN (w : Word) : Nibble := w.extractLsb' 0 4

/-- `nn = w[7:0]` (30_encoding.md R82). -/
def fieldNN (w : Word) : Byte := w.extractLsb' 0 8

/-- `nnn = w[11:0]` (30_encoding.md R82). -/
def fieldNNN (w : Word) : Addr := w.extractLsb' 0 12

/-- Family 0: the sub-selector is the pair `(y, n)`, which is the low byte; `x` is ignored
(30_encoding.md R93, D8). -/
def decode0 (w : Word) : Except DecodeError Instr :=
  if fieldNN w = 0xE0#8 then .ok .cls
  else if fieldNN w = 0xEE#8 then .ok .ret
  else .error (.unassigned0 w)

/-- Family 8: the sub-selector is `n` (30_encoding.md R93). -/
def decode8 (w : Word) : Except DecodeError Instr :=
  if fieldN w = 0x0#4 then .ok (.ldReg (fieldX w) (fieldY w))
  else if fieldN w = 0x1#4 then .ok (.orReg (fieldX w) (fieldY w))
  else if fieldN w = 0x2#4 then .ok (.andReg (fieldX w) (fieldY w))
  else if fieldN w = 0x3#4 then .ok (.xorReg (fieldX w) (fieldY w))
  else if fieldN w = 0x4#4 then .ok (.addReg (fieldX w) (fieldY w))
  else if fieldN w = 0x5#4 then .ok (.subReg (fieldX w) (fieldY w))
  else if fieldN w = 0x6#4 then .ok (.shrReg (fieldX w) (fieldY w))
  else if fieldN w = 0x7#4 then .ok (.subnReg (fieldX w) (fieldY w))
  else if fieldN w = 0xE#4 then .ok (.shlReg (fieldX w) (fieldY w))
  else .error (.unassigned8 w)

/-- Family E: the sub-selector is `nn`; nothing is recognized when `KEY_OPS` is false
(30_encoding.md R93, R102; 44_input.md R200). -/
def decodeE (keyOps : Bool) (w : Word) : Except DecodeError Instr :=
  if keyOps = true ∧ fieldNN w = 0x9E#8 then .ok (.skp (fieldX w))
  else if keyOps = true ∧ fieldNN w = 0xA1#8 then .ok (.sknp (fieldX w))
  else .error (.unassignedE w)

/-- Family F: the sub-selector is `nn`; `0x0A` is recognized only when `KEY_OPS` is true
(30_encoding.md R93, R102; 44_input.md R200). -/
def decodeF (keyOps : Bool) (w : Word) : Except DecodeError Instr :=
  if keyOps = true ∧ fieldNN w = 0x0A#8 then .ok (.ldKey (fieldX w))
  else if fieldNN w = 0x1E#8 then .ok (.addI (fieldX w))
  else if fieldNN w = 0x33#8 then .ok (.ldBcd (fieldX w))
  else if fieldNN w = 0x55#8 then .ok (.storeRegs (fieldX w))
  else if fieldNN w = 0x65#8 then .ok (.loadRegs (fieldX w))
  else .error (.unassignedF w)

/-- Decode a word: dispatch on the family, then on its sub-selector (30_encoding.md R92, R93). -/
def decodeWord (keyOps : Bool) (w : Word) : Except DecodeError Instr :=
  match (fieldFamily w).toNat with
  | 0x0 => decode0 w
  | 0x1 => .ok (.jp (fieldNNN w))
  | 0x2 => .ok (.call (fieldNNN w))
  | 0x3 => .ok (.seImm (fieldX w) (fieldNN w))
  | 0x4 => .ok (.sneImm (fieldX w) (fieldNN w))
  | 0x5 => .ok (.seReg (fieldX w) (fieldY w))
  | 0x6 => .ok (.ldImm (fieldX w) (fieldNN w))
  | 0x7 => .ok (.addImm (fieldX w) (fieldNN w))
  | 0x8 => decode8 w
  | 0x9 => .ok (.sneReg (fieldX w) (fieldY w))
  | 0xA => .ok (.ldI (fieldNNN w))
  | 0xB => .ok (.jpV0 (fieldNNN w))
  | 0xC => .ok (.rnd (fieldX w) (fieldNN w))
  | 0xD => .ok (.drw (fieldX w) (fieldY w) (fieldN w))
  | 0xE => decodeE keyOps w
  | _ => decodeF keyOps w

/-- A word from its two bytes, big-endian: `w = hi ++ lo` (20_memory.md R65). -/
def wordOfBytes (hi lo : Byte) : Word := hi ++ lo

/-- The byte of a word at the lower address (20_memory.md R65). -/
def highByte (w : Word) : Byte := w.extractLsb' 8 8

/-- The byte of a word at the higher address (20_memory.md R65). -/
def lowByte (w : Word) : Byte := w.extractLsb' 0 8

/-- Decode the first instruction of a byte sequence, with the bytes that follow it: every
instruction is two bytes (30_encoding.md R80). -/
def decodeBytes (keyOps : Bool) : List Byte → Except DecodeError (Instr × List Byte)
  | hi :: lo :: rest =>
    match decodeWord keyOps (wordOfBytes hi lo) with
    | .ok i => .ok (i, rest)
    | .error e => .error e
  | [_] => .error .truncated
  | [] => .error .truncated

/-- Format A: `ffff aaaa aaaa aaaa` (30_encoding.md R83). -/
def formatA (f : Nibble) (nnn : Addr) : Word := f ++ nnn

/-- Formats XK and XF: `ffff xxxx kkkk kkkk` (30_encoding.md R83). -/
def formatXK (f x : Nibble) (nn : Byte) : Word := f ++ x ++ nn

/-- Formats XY and XYN: `ffff xxxx yyyy nnnn` (30_encoding.md R83). -/
def formatXYN (f x y n : Nibble) : Word := f ++ x ++ y ++ n

/-- The word of an instruction (30_encoding.md R83, R100), its ignored bits 0 (R104). -/
def encode : Instr → Word
  | .cls => formatXK 0x0#4 0x0#4 0xE0#8
  | .ret => formatXK 0x0#4 0x0#4 0xEE#8
  | .jp nnn => formatA 0x1#4 nnn
  | .call nnn => formatA 0x2#4 nnn
  | .seImm x nn => formatXK 0x3#4 x nn
  | .sneImm x nn => formatXK 0x4#4 x nn
  | .seReg x y => formatXYN 0x5#4 x y 0x0#4
  | .ldImm x nn => formatXK 0x6#4 x nn
  | .addImm x nn => formatXK 0x7#4 x nn
  | .ldReg x y => formatXYN 0x8#4 x y 0x0#4
  | .orReg x y => formatXYN 0x8#4 x y 0x1#4
  | .andReg x y => formatXYN 0x8#4 x y 0x2#4
  | .xorReg x y => formatXYN 0x8#4 x y 0x3#4
  | .addReg x y => formatXYN 0x8#4 x y 0x4#4
  | .subReg x y => formatXYN 0x8#4 x y 0x5#4
  | .shrReg x y => formatXYN 0x8#4 x y 0x6#4
  | .subnReg x y => formatXYN 0x8#4 x y 0x7#4
  | .shlReg x y => formatXYN 0x8#4 x y 0xE#4
  | .sneReg x y => formatXYN 0x9#4 x y 0x0#4
  | .ldI nnn => formatA 0xA#4 nnn
  | .jpV0 nnn => formatA 0xB#4 nnn
  | .rnd x nn => formatXK 0xC#4 x nn
  | .drw x y n => formatXYN 0xD#4 x y n
  | .skp x => formatXK 0xE#4 x 0x9E#8
  | .sknp x => formatXK 0xE#4 x 0xA1#8
  | .ldKey x => formatXK 0xF#4 x 0x0A#8
  | .addI x => formatXK 0xF#4 x 0x1E#8
  | .ldBcd x => formatXK 0xF#4 x 0x33#8
  | .storeRegs x => formatXK 0xF#4 x 0x55#8
  | .loadRegs x => formatXK 0xF#4 x 0x65#8

/-- The bytes of an instruction, the first at the lowest address (20_memory.md R65). -/
def encodeBytes (i : Instr) : List Byte := [highByte (encode i), lowByte (encode i)]

/-- A row of the opcode map, with the two columns that select it (30_encoding.md R100). -/
structure OpcodeRow where
  pattern : Word
  mask : Word
deriving DecidableEq, Repr

/-- A word selects a row when `w & mask = match` (30_encoding.md R100). -/
def OpcodeRow.selects (r : OpcodeRow) (w : Word) : Bool := w &&& r.mask == r.pattern

/-- The opcode map's row of an instruction (30_encoding.md R100), copied column by column. -/
def opcodeRow : Instr → OpcodeRow
  | .cls => ⟨0x00E0#16, 0xF0FF#16⟩
  | .ret => ⟨0x00EE#16, 0xF0FF#16⟩
  | .jp _ => ⟨0x1000#16, 0xF000#16⟩
  | .call _ => ⟨0x2000#16, 0xF000#16⟩
  | .seImm _ _ => ⟨0x3000#16, 0xF000#16⟩
  | .sneImm _ _ => ⟨0x4000#16, 0xF000#16⟩
  | .seReg _ _ => ⟨0x5000#16, 0xF000#16⟩
  | .ldImm _ _ => ⟨0x6000#16, 0xF000#16⟩
  | .addImm _ _ => ⟨0x7000#16, 0xF000#16⟩
  | .ldReg _ _ => ⟨0x8000#16, 0xF00F#16⟩
  | .orReg _ _ => ⟨0x8001#16, 0xF00F#16⟩
  | .andReg _ _ => ⟨0x8002#16, 0xF00F#16⟩
  | .xorReg _ _ => ⟨0x8003#16, 0xF00F#16⟩
  | .addReg _ _ => ⟨0x8004#16, 0xF00F#16⟩
  | .subReg _ _ => ⟨0x8005#16, 0xF00F#16⟩
  | .shrReg _ _ => ⟨0x8006#16, 0xF00F#16⟩
  | .subnReg _ _ => ⟨0x8007#16, 0xF00F#16⟩
  | .shlReg _ _ => ⟨0x800E#16, 0xF00F#16⟩
  | .sneReg _ _ => ⟨0x9000#16, 0xF000#16⟩
  | .ldI _ => ⟨0xA000#16, 0xF000#16⟩
  | .jpV0 _ => ⟨0xB000#16, 0xF000#16⟩
  | .rnd _ _ => ⟨0xC000#16, 0xF000#16⟩
  | .drw _ _ _ => ⟨0xD000#16, 0xF000#16⟩
  | .skp _ => ⟨0xE09E#16, 0xF0FF#16⟩
  | .sknp _ => ⟨0xE0A1#16, 0xF0FF#16⟩
  | .ldKey _ => ⟨0xF00A#16, 0xF0FF#16⟩
  | .addI _ => ⟨0xF01E#16, 0xF0FF#16⟩
  | .ldBcd _ => ⟨0xF033#16, 0xF0FF#16⟩
  | .storeRegs _ => ⟨0xF055#16, 0xF0FF#16⟩
  | .loadRegs _ => ⟨0xF065#16, 0xF0FF#16⟩

/-- The 30 rows of the opcode map, one for each constructor of `Instr` (30_encoding.md R100). -/
def opcodeMap : List OpcodeRow :=
  [opcodeRow .cls, opcodeRow .ret, opcodeRow (.jp 0), opcodeRow (.call 0), opcodeRow (.seImm 0 0),
    opcodeRow (.sneImm 0 0), opcodeRow (.seReg 0 0), opcodeRow (.ldImm 0 0), opcodeRow (.addImm 0 0),
    opcodeRow (.ldReg 0 0)] ++
  [opcodeRow (.orReg 0 0), opcodeRow (.andReg 0 0), opcodeRow (.xorReg 0 0), opcodeRow (.addReg 0 0),
    opcodeRow (.subReg 0 0), opcodeRow (.shrReg 0 0), opcodeRow (.subnReg 0 0), opcodeRow (.shlReg 0 0),
    opcodeRow (.sneReg 0 0), opcodeRow (.ldI 0)] ++
  [opcodeRow (.jpV0 0), opcodeRow (.rnd 0 0), opcodeRow (.drw 0 0 0), opcodeRow (.skp 0),
    opcodeRow (.sknp 0), opcodeRow (.ldKey 0), opcodeRow (.addI 0), opcodeRow (.ldBcd 0),
    opcodeRow (.storeRegs 0), opcodeRow (.loadRegs 0)]

/-- The bits of an instruction's word that the decoder ignores: `x` of CLS and RET (D8), `n` of the
register skips (D9); none of any other (30_encoding.md R83). -/
def ignoredBits : Instr → Word
  | .cls => 0x0F00#16
  | .ret => 0x0F00#16
  | .seReg _ _ => 0x000F#16
  | .sneReg _ _ => 0x000F#16
  | .jp _ => 0#16
  | .call _ => 0#16
  | .seImm _ _ => 0#16
  | .sneImm _ _ => 0#16
  | .ldImm _ _ => 0#16
  | .addImm _ _ => 0#16
  | .ldReg _ _ => 0#16
  | .orReg _ _ => 0#16
  | .andReg _ _ => 0#16
  | .xorReg _ _ => 0#16
  | .addReg _ _ => 0#16
  | .subReg _ _ => 0#16
  | .shrReg _ _ => 0#16
  | .subnReg _ _ => 0#16
  | .shlReg _ _ => 0#16
  | .ldI _ => 0#16
  | .jpV0 _ => 0#16
  | .rnd _ _ => 0#16
  | .drw _ _ _ => 0#16
  | .skp _ => 0#16
  | .sknp _ => 0#16
  | .ldKey _ => 0#16
  | .addI _ => 0#16
  | .ldBcd _ => 0#16
  | .storeRegs _ => 0#16
  | .loadRegs _ => 0#16

/-- The word numbered as the opcode table numbers it: the table gives 16 bits, and a bit above
`nbits` is 0. -/
def tableWord (nbits w : Nat) : Word := BitVec.ofNat 16 (w % 2 ^ nbits)

/-- The instruction the decoder reads, with the default parameters, from the two bytes of a table
word laid out as the hardware stores them (20_memory.md R65). -/
def decodeTableWord (nbits w : Nat) : Option Instr :=
  match decodeBytes defaultParams.keyOps [highByte (tableWord nbits w), lowByte (tableWord nbits w)] with
  | .ok (i, _) => some i
  | .error _ => none

end Sys2Proof
end

