-- ==== Sys2Proof/Machine/State.lean ====
section
/-! DEFINITION. The state of the block (10_state.md R20 to R37), as plain data, its state after reset
(R37, 70_reset_and_hazards.md R240), and the reasons a step can give. -/

namespace Sys2Proof.Machine

/-- The fault causes of 60_exceptions.md R210. None of them ends a run of the model: a meaning that
raises one takes the fault's entry (R212) as a NEXT state, so `step` never answers `.fault`. That is
safe: the block itself goes on to a defined state (log entry 10). -/
inductive Fault where
  /-- Code 1, raised by `00EE` when `sp = 0` (40_control_flow.md R110). Safe: taken as a next state. -/
  | emptyStackReturn
  /-- Code 2, raised by `2nnn` when `sp = STACK_DEPTH` (40_control_flow.md R112). Safe: taken as a
  next state. -/
  | stackOverflow
  /-- Code 3, raised by a memory access above 4095 of `Dxyn`, `Fx33`, `Fx55`, `Fx65` (20_memory.md
  R64), and by a fetch with `pc` above 4095, which no run reaches (log entry 5). Safe: taken as a
  next state. -/
  | memOutOfRange
  /-- Code 4, raised by `Bnnn` with a target above 4095 (40_control_flow.md R124). Safe: taken as a
  next state. -/
  | pcOutOfRange
  /-- Code 5, raised by the fetch at 4095 (30_encoding.md R91). Safe: taken as a next state. -/
  | fetchOutOfRange
deriving DecidableEq, Repr

/-- The reasons the model could give for having no meaning. No instruction uses one. -/
inductive Refusal where
  /-- Raised by `exec` for an instruction that has no meaning yet: none. Safe: the model stops where
  the block goes on. -/
  | notModelled (mnemonic : String)
deriving DecidableEq, Repr

/-- Memory: address and byte, addresses strictly rising, no entry equal to what an unlisted address
reads as (log entry 9). -/
abbrev Memory := List Host.Cell

/-- The display buffer: row `r`, column `c` is bit `c` of entry `r` (10_state.md R29, log entry 8). -/
abbrev Display := Vector (BitVec 64) 32

/-- Everything the spec gives the block (10_state.md R37), and the model's own four carried values:
the parameters (log entry 1) and the inputs of the coming STEPs (log entry 2). -/
structure State where
  /-- The parameters of 00_scope.md R7; no operation writes them. -/
  params : Params
  /-- `mem`, 4096 bytes (20_memory.md R60). -/
  mem : Memory
  /-- `V[0x0]` to `V[0xF]` (10_state.md R20). -/
  v : Vector Byte 16
  /-- `I` (10_state.md R26). -/
  i : Word
  /-- `pc`, the address of the next instruction to fetch (10_state.md R24). -/
  pc : Word
  /-- `stack[0]` to `stack[STACK_DEPTH - 1]` (10_state.md R27). -/
  stack : List Word
  /-- `sp`, how many stack entries are in use (10_state.md R27). -/
  sp : Nat
  /-- `disp[r][c]` (10_state.md R29). -/
  disp : Display
  /-- `halted` (10_state.md R30). -/
  halted : Bool
  /-- `step_mode` (10_state.md R31). -/
  stepMode : Bool
  /-- `waiting_for_input` (10_state.md R32). -/
  waitingForInput : Bool
  /-- `fault_code`, 0 for none (10_state.md R33, 60_exceptions.md R210). -/
  faultCode : BitVec 3
  /-- `fault_pc` (10_state.md R33). -/
  faultPc : Word
  /-- The MODEL's own: the inputs the host has already fixed for its coming STEPs, the next first. -/
  inputs : List StepInput
  /-- The MODEL's own: the number of the coming STEP, the argument of the free values of `Config`. -/
  inputIndex : Nat
deriving DecidableEq, Repr

/-- The block right after its creation, with given parameters: "all fields zeroed except the program
counter (512) and the stack (empty)" (10_state.md R37, 70_reset_and_hazards.md R240). -/
def State.resetWith (p : Params) : State where
  params := p
  mem := []
  v := Vector.replicate 16 0#8
  i := 0#16
  pc := 0x0200#16
  stack := List.replicate p.stackDepth 0#16
  sp := 0
  disp := Vector.replicate 32 0#64
  halted := false
  stepMode := false
  waitingForInput := false
  faultCode := 0#3
  faultPc := 0#16
  inputs := []
  inputIndex := 0

/-- The block right after its creation, with the default parameters of 00_scope.md R7. -/
def State.reset : State := State.resetWith defaultParams

end Sys2Proof.Machine
end

