-- ==== Sys2Proof/Machine/Ops.lean ====
section
/-! DEFINITION. The named operations over the state: memory, registers, the program counter, the
call stack, the display, the step's inputs, the fetch, and fault entry (00_scope.md R9). -/

namespace Sys2Proof.Machine

/-! ## Memory (20_memory.md) -/

/-- What an unlisted address reads as: memory is 0x00 at reset (10_state.md R37, log entry 9). -/
def unlistedByte : Byte := 0#8

/-- The byte a memory holds at an address. -/
def Memory.lookup : Memory → Nat → Byte
  | [], _ => unlistedByte
  | (b, y) :: m, a => if a = b then y else if a < b then unlistedByte else Memory.lookup m a

/-- A memory without its leading entries at or below an address: of a canonical tail above that
address, nothing is dropped. -/
def Memory.dropThrough (a : Nat) : Memory → Memory
  | [] => []
  | (b, y) :: m => if b ≤ a then Memory.dropThrough a m else (b, y) :: m

/-- A memory with one byte written, in canonical form where the memory was. -/
def Memory.store : Memory → Nat → Byte → Memory
  | [], a, x => if x = unlistedByte then [] else [(a, x)]
  | (b, y) :: m, a, x =>
    if a < b then (if x = unlistedByte then (b, y) :: m else (a, x) :: (b, y) :: m)
    else if a = b then (if x = unlistedByte then Memory.dropThrough a m else (a, x) :: m)
    else (b, y) :: Memory.store m a x

/-- Whether a memory's entries from a lower bound on are canonical. -/
def Memory.wfFrom : Nat → Memory → Bool
  | _, [] => true
  | lo, (a, x) :: m =>
    decide (lo ≤ a) && decide (a < memSize) && decide (x ≠ unlistedByte) && Memory.wfFrom (a + 1) m

/-- The canonical form: addresses strictly rising and below 4096, no entry equal to what an unlisted
address reads as. -/
def Memory.wf (m : Memory) : Bool := Memory.wfFrom 0 m

/-- The byte the state's memory holds at an address, no bound checked. -/
def State.byteAt (s : State) (a : Nat) : Byte := Memory.lookup s.mem a

/-- `MemRead(a, 1)`: `a` is unbounded, and above 4095 it raises `MemOutOfRange` (20_memory.md R64). -/
def State.memRead (s : State) (a : Nat) : Except Fault Byte :=
  if a < memSize then .ok (s.byteAt a) else .error .memOutOfRange

/-- The state with one byte of memory written, no bound checked. -/
def State.setByte (s : State) (a : Nat) (x : Byte) : State :=
  { s with mem := Memory.store s.mem a x }

/-- `MemWrite(a, 1, x)`: `a` is unbounded, and above 4095 it raises `MemOutOfRange` (20_memory.md
R64). -/
def State.memWrite (s : State) (a : Nat) (x : Byte) : Except Fault State :=
  if a < memSize then .ok (s.setByte a x) else .error .memOutOfRange

/-- Read `n` bytes from an address up, in ascending order (20_memory.md R69). -/
def State.readBytes (s : State) : Nat → Nat → Except Fault (List Byte)
  | _, 0 => .ok []
  | a, n + 1 =>
    match s.memRead a with
    | .error f => .error f
    | .ok b =>
      match State.readBytes s (a + 1) n with
      | .error f => .error f
      | .ok bs => .ok (b :: bs)

/-- Write bytes from an address up, in ascending order (20_memory.md R69). -/
def State.writeBytes : State → Nat → List Byte → Except Fault State
  | s, _, [] => .ok s
  | s, a, b :: bs =>
    match s.memWrite a b with
    | .error f => .error f
    | .ok t => State.writeBytes t (a + 1) bs

/-! ## General registers and `I` (10_state.md R20, R26) -/

/-- `V[x]`. -/
def State.reg (s : State) (x : Nibble) : Byte := s.v[x.toNat]'x.isLt

/-- `V[x] <- b`. -/
def State.setReg (s : State) (x : Nibble) (b : Byte) : State :=
  { s with v := s.v.set x.toNat b x.isLt }

/-- `V[0xF] <- b` (10_state.md R22). -/
def State.setFlag (s : State) (b : Byte) : State := s.setReg flagReg b

/-- `V[k] <- b`, `V[k + 1] <- ...`, for a list of bytes (42_index_memory.md R164). -/
def State.setRegsFrom : State → Nat → List Byte → State
  | s, _, [] => s
  | s, k, b :: bs => State.setRegsFrom { s with v := s.v.setIfInBounds k b } (k + 1) bs

/-- `V[0]` to `V[x]`, in order (42_index_memory.md R163). -/
def State.regsThrough (s : State) (x : Nibble) : List Byte := s.v.toList.take (x.toNat + 1)

/-- `I <- a`. -/
def State.setIndex (s : State) (a : Word) : State := { s with i := a }

/-! ## The program counter (10_state.md R24, 20_memory.md R66) -/

/-- The advance by 2 modulo the memory size (20_memory.md R66). -/
def pcPlus2 (pc : Word) : Word := BitVec.ofNat 16 ((pc.toNat + 2) % memSize)

/-- `pc <- t`. -/
def State.setPc (s : State) (t : Word) : State := { s with pc := t }

/-- The fetch advance: `pc <- (pc_f + 2) mod 4096` (30_encoding.md R90). -/
def State.advance (s : State) : State := s.setPc (pcPlus2 s.pc)

/-- `skip()`: `pc <- (pc + 2) mod 4096`, after the fetch advance (40_control_flow.md R114). -/
def State.skip (s : State) : State := s.setPc (pcPlus2 s.pc)

/-- `if c then skip()`. -/
def State.skipIf (s : State) (c : Bool) : State := if c then s.skip else s

/-! ## The call stack (10_state.md R27, R28) -/

/-- `push(v)`: `StackOverflow` on a full stack (10_state.md R28, log entry 6). -/
def State.push (s : State) (a : Word) : Except Fault State :=
  if s.params.stackDepth ≤ s.sp then .error .stackOverflow
  else .ok { s with stack := s.stack.set s.sp a, sp := s.sp + 1 }

/-- `stack[k]`; 0 where the list holds no entry `k`, which no run reaches (log entry 6). -/
def State.stackEntry (s : State) (k : Nat) : Word := s.stack.getD k 0#16

/-- `pop()`, with the popped address: `EmptyStackReturn` on an empty stack (10_state.md R28). The
popped entry keeps its value above the new `sp`, unobservable. -/
def State.pop (s : State) : Except Fault (Word × State) :=
  if s.sp = 0 then .error .emptyStackReturn
  else .ok (s.stackEntry (s.sp - 1), { s with sp := s.sp - 1 })

/-! ## The display (10_state.md R29) -/

/-- `disp[r][c]`; dark outside the 32 rows and 64 columns, which no rule reaches. -/
def Display.lit (d : Display) (r c : Nat) : Bool := (d[r]?.getD 0#64).getLsbD c

/-- `disp[r][c] <- disp[r][c] ^ 1` (43_display.md R182). -/
def Display.toggle (d : Display) (r c : Nat) : Display :=
  d.setIfInBounds r ((d[r]?.getD 0#64) ^^^ BitVec.twoPow 64 c)

/-- The display with every pixel dark (43_display.md R180). -/
def Display.dark : Display := Vector.replicate 32 0#64

/-- `disp[r][c]` of a state. -/
def State.pixel (s : State) (r c : Nat) : Bool := Display.lit s.disp r c

/-- The state with another display. -/
def State.setDisp (s : State) (d : Display) : State := { s with disp := d }

/-! ## The inputs of a STEP (10_state.md R51, R54, R55; log entry 2) -/

/-- `rnd` of the STEP at hand: the host's, where the state lists it, else a free value. -/
def State.rnd (s : State) : Byte :=
  match s.inputs with
  | inp :: _ => inp.rnd
  | [] => Config.rndInput s.inputIndex

/-- `key` of the STEP at hand: the host's, where the state lists it, else a free value. -/
def State.key (s : State) : Option Nibble :=
  match s.inputs with
  | inp :: _ => inp.key
  | [] => Config.keyInput s.inputIndex

/-- The state once a STEP has sampled its inputs: the next STEP has its own. -/
def State.consumeInput (s : State) : State :=
  { s with inputs := s.inputs.tail, inputIndex := s.inputIndex + 1 }

/-- The state whose coming STEP has these inputs. -/
def State.withInput (s : State) (inp : StepInput) : State := { s with inputs := inp :: s.inputs }

/-! ## Fault entry (60_exceptions.md R210 to R214) -/

/-- The code of a fault (60_exceptions.md R210). -/
def Fault.code : Fault → BitVec 3
  | .emptyStackReturn => 1#3
  | .stackOverflow => 2#3
  | .memOutOfRange => 3#3
  | .pcOutOfRange => 4#3
  | .fetchOutOfRange => 5#3

/-- Fault entry, from the state in which the step began: every write of the step is discarded,
`fault_code <- code(F)`, `fault_pc <- pc_f`; `pc` stays `pc_f` (60_exceptions.md R212). -/
def State.takeFault (s : State) (f : Fault) : State :=
  { s with faultCode := f.code, faultPc := s.pc }

/-- What a LOAD does to the stop states, the only exit from a fault or a halt (60_exceptions.md R213,
R214; 70_reset_and_hazards.md R243). -/
def State.clearStops (s : State) : State :=
  { s with halted := false, waitingForInput := false, faultCode := 0#3, faultPc := 0#16 }

/-- The state in which a step that began in `s` ends: the one its writes give, or, where it raised a
fault, fault entry from `s` (60_exceptions.md R212). -/
def settle (s : State) : Except Fault State → State
  | .ok t => t
  | .error f => s.takeFault f

/-! ## The step around an instruction (30_encoding.md R90) -/

/-- Whether a STEP does nothing: `fault_code != 0` or `halted = 1` (30_encoding.md R90). -/
def State.idle (s : State) : Bool := decide (s.faultCode ≠ 0#3) || s.halted

/-- The fetch: `FetchOutOfRange` at 4095, else the big-endian word at `pc` (30_encoding.md R90, R91). -/
def State.fetchWord (s : State) : Except Fault Word :=
  if s.pc.toNat = 4095 then .error .fetchOutOfRange
  else
    match s.memRead s.pc.toNat with
    | .error f => .error f
    | .ok hi =>
      match s.memRead (s.pc.toNat + 1) with
      | .error f => .error f
      | .ok lo => .ok (wordOfBytes hi lo)

/-- The fetch and the decoding of what it read: an instruction, or the name of the unrecognized
encoding (30_encoding.md R90, R92). -/
def State.fetchInstr (s : State) : Except Fault (Except DecodeError Instr) :=
  match s.fetchWord with
  | .error f => .error f
  | .ok w => .ok (decodeWord s.params.keyOps w)

/-- An unrecognized word has exactly the effect of its fetch (30_encoding.md R101, D34). -/
def State.noOp (s : State) : State := s.advance

/-- An outcome once the STEP has sampled its inputs. -/
def consumeOutcome : Host.Outcome State Fault Refusal → Host.Outcome State Fault Refusal
  | .next t => .next t.consumeInput
  | .fault f => .fault f
  | .refused r => .refused r

/-- The state with a word's two bytes placed at `pc`, where the next step fetches it (20_memory.md
R65). -/
def State.placeWord (s : State) (w : Word) : State :=
  (s.setByte s.pc.toNat (highByte w)).setByte (s.pc.toNat + 1) (lowByte w)

end Sys2Proof.Machine
end

