-- ==== Sys2Proof/Machine/Operands.lean ====
section
/-! DEFINITION. The operand forms (30_encoding.md R84): addresses, effective addresses, the sprite's
origin, the decimal digits, the key. Every operand is unsigned (00_scope.md R8). -/

namespace Sys2Proof.Machine

/-- `zext_16(nnn)` (30_encoding.md R84). -/
def zextAddr (nnn : Addr) : Word := nnn.setWidth 16

/-- `zext_16(b)`, for the unsigned sum of `I` and a register (42_index_memory.md R161). -/
def zextByte (b : Byte) : Word := b.setWidth 16

/-- A key, zero-extended to 8 bits (44_input.md R203). -/
def zextKey (k : Nibble) : Byte := k.setWidth 8

/-- The base of every data access, `I`, an unbounded natural number: `I + k` is never reduced
(20_memory.md R64, 42_index_memory.md R165). -/
def State.base (s : State) : Nat := s.i.toNat

/-- The unreduced target of `Bnnn`: `nnn + V[0]` (40_control_flow.md R124). -/
def State.jumpTarget (s : State) (nnn : Addr) : Nat := nnn.toNat + (s.reg 0x0#4).toNat

/-- The sprite's column, `V[x] mod 64` (43_display.md R181). -/
def State.originColumn (s : State) (x : Nibble) : Nat := (s.reg x).toNat % 64

/-- The sprite's row, `V[y] mod 32` (43_display.md R181). -/
def State.originRow (s : State) (y : Nibble) : Nat := (s.reg y).toNat % 32

/-- The hundreds, tens and units of a byte, in the order they are stored (42_index_memory.md R162). -/
def decimalDigits (b : Byte) : List Byte :=
  [BitVec.ofNat 8 (b.toNat / 100), BitVec.ofNat 8 (b.toNat / 10 % 10), BitVec.ofNat 8 (b.toNat % 10)]

/-- Whether the key in `V[x]` is pressed: there is a key, and it equals all 8 bits of `V[x]`
(44_input.md R201, D32). -/
def State.keyPressed (s : State) (x : Nibble) : Bool :=
  match s.key with
  | none => false
  | some k => zextKey k == s.reg x

end Sys2Proof.Machine
end

