-- ==== Sys2Proof/Machine/Flags.lean ====
section
/-! DEFINITION. Results and flags of the arithmetic instructions (41_alu.md R132, R138 to R142), and
the one way to write them: the result, then VF (R133). Every flag is 0x00 or 0x01 (10_state.md R23). -/

namespace Sys2Proof.Machine

/-- A flag value, 0x01 or 0x00 (41_alu.md R133). -/
def flagByte (c : Bool) : Byte := if c then 1#8 else 0#8

/-- `s mod 256` of the sum (41_alu.md R138). -/
def sumResult (a b : Byte) : Byte := BitVec.ofNat 8 ((a.toNat + b.toNat) % 256)

/-- The carry: the unsigned sum exceeds 255 (41_alu.md R138). -/
def carryFlag (a b : Byte) : Byte := flagByte (decide (a.toNat + b.toNat > 255))

/-- `(a + 256 - b) mod 256` (41_alu.md R139). -/
def differenceResult (a b : Byte) : Byte := BitVec.ofNat 8 ((a.toNat + 256 - b.toNat) % 256)

/-- No borrow: minuend at least subtrahend, equality included (41_alu.md R132, D10, C2). -/
def noBorrowFlag (a b : Byte) : Byte := flagByte (decide (a.toNat ≥ b.toNat))

/-- `b >> 1`, the vacated bit 0 (41_alu.md R140). -/
def shiftRightResult (b : Byte) : Byte := b >>> 1

/-- The bit shifted out to the right, bit 0 (41_alu.md R140). -/
def shiftRightFlag (b : Byte) : Byte := flagByte (b.getLsbD 0)

/-- `(b << 1) mod 256`, the vacated bit 0 (41_alu.md R142). -/
def shiftLeftResult (b : Byte) : Byte := b <<< 1

/-- The bit shifted out to the left, bit 7 (41_alu.md R142). -/
def shiftLeftFlag (b : Byte) : Byte := flagByte (b.getLsbD 7)

/-- Write a result to `V[x]`, then a flag to VF: with `x = 0xF` VF ends holding the flag (41_alu.md
R133, D11). -/
def State.setResultFlag (s : State) (x : Nibble) (result flag : Byte) : State :=
  (s.setReg x result).setFlag flag

end Sys2Proof.Machine
end

