-- ==== Sys2Proof/Machine/Alu.lean ====
section
/-! DEFINITION. Register and arithmetic instructions: `6xnn`, `7xnn`, `8xy0` to `8xy7`, `8xyE`,
`Cxnn` (41_alu.md). None writes `pc` after the fetch advance; none can fault. Operands are read from
the state in which the step began, before any register is written (41_alu.md R133). -/

namespace Sys2Proof.Machine

/-- LD Vx, nn (41_alu.md R130). -/
def execLdImm (x : Nibble) (nn : Byte) (s : State) : Host.Outcome State Fault Refusal :=
  .next (s.advance.setReg x nn)

/-- ADD Vx, nn (41_alu.md R131): no flag. -/
def execAddImm (x : Nibble) (nn : Byte) (s : State) : Host.Outcome State Fault Refusal :=
  .next (s.advance.setReg x (sumResult (s.reg x) nn))

/-- LD Vx, Vy (41_alu.md R134). -/
def execLdReg (x y : Nibble) (s : State) : Host.Outcome State Fault Refusal :=
  .next (s.advance.setReg x (s.reg y))

/-- OR Vx, Vy (41_alu.md R135): VF not written (D12). -/
def execOrReg (x y : Nibble) (s : State) : Host.Outcome State Fault Refusal :=
  .next (s.advance.setReg x (s.reg x ||| s.reg y))

/-- AND Vx, Vy (41_alu.md R136): VF not written (D12). -/
def execAndReg (x y : Nibble) (s : State) : Host.Outcome State Fault Refusal :=
  .next (s.advance.setReg x (s.reg x &&& s.reg y))

/-- XOR Vx, Vy (41_alu.md R137): VF not written (D12). -/
def execXorReg (x y : Nibble) (s : State) : Host.Outcome State Fault Refusal :=
  .next (s.advance.setReg x (s.reg x ^^^ s.reg y))

/-- ADD Vx, Vy (41_alu.md R138): VF = carry. -/
def execAddReg (x y : Nibble) (s : State) : Host.Outcome State Fault Refusal :=
  .next (s.advance.setResultFlag x (sumResult (s.reg x) (s.reg y)) (carryFlag (s.reg x) (s.reg y)))

/-- SUB Vx, Vy (41_alu.md R139): VF = no borrow. -/
def execSubReg (x y : Nibble) (s : State) : Host.Outcome State Fault Refusal :=
  .next (s.advance.setResultFlag x
    (differenceResult (s.reg x) (s.reg y)) (noBorrowFlag (s.reg x) (s.reg y)))

/-- SHR Vx, Vy (41_alu.md R140): the source is `V[y]`; VF = the bit shifted out. -/
def execShrReg (x y : Nibble) (s : State) : Host.Outcome State Fault Refusal :=
  .next (s.advance.setResultFlag x (shiftRightResult (s.reg y)) (shiftRightFlag (s.reg y)))

/-- SUBN Vx, Vy (41_alu.md R141): minuend `V[y]`, subtrahend `V[x]`; VF = no borrow. -/
def execSubnReg (x y : Nibble) (s : State) : Host.Outcome State Fault Refusal :=
  .next (s.advance.setResultFlag x
    (differenceResult (s.reg y) (s.reg x)) (noBorrowFlag (s.reg y) (s.reg x)))

/-- SHL Vx, Vy (41_alu.md R142): the source is `V[y]`; VF = the bit shifted out. -/
def execShlReg (x y : Nibble) (s : State) : Host.Outcome State Fault Refusal :=
  .next (s.advance.setResultFlag x (shiftLeftResult (s.reg y)) (shiftLeftFlag (s.reg y)))

/-- RND Vx, nn (41_alu.md R145): `V[x] <- rnd & nn`, `rnd` the STEP's free input. -/
def execRnd (x : Nibble) (nn : Byte) (s : State) : Host.Outcome State Fault Refusal :=
  .next (s.advance.setReg x (s.rnd &&& nn))

end Sys2Proof.Machine
end

