-- ==== Sys2Proof/Machine/Control.lean ====
section
/-! DEFINITION. Control transfer: `00EE`, `1nnn`, `2nnn`, `3xnn`, `4xnn`, `5xyn`, `9xyn`, `Bnnn`
(40_control_flow.md). A meaning starts from the state in which the step began, so `s.pc` is `pc_f`. -/

namespace Sys2Proof.Machine

/-- RET (40_control_flow.md R110): `pc <- pop()`. -/
def execRet (s : State) : Host.Outcome State Fault Refusal :=
  .next (settle s
    (match s.advance.pop with
      | .error f => .error f
      | .ok (a, t) => .ok (t.setPc a)))

/-- Whether `1nnn` halts the block: `SELF_JUMP_HALT` and `nnn = pc_f` (40_control_flow.md R111). -/
def State.selfJumpHalts (s : State) (nnn : Addr) : Bool :=
  s.params.selfJumpHalt && s.pc == zextAddr nnn

/-- JP nnn (40_control_flow.md R111): the jump, and the self-jump halt. -/
def execJp (nnn : Addr) (s : State) : Host.Outcome State Fault Refusal :=
  .next { s.setPc (zextAddr nnn) with halted := s.selfJumpHalts nnn || s.halted }

/-- CALL nnn (40_control_flow.md R112): `push(pc); pc <- zext_16(nnn)`, `pc` already advanced. -/
def execCall (nnn : Addr) (s : State) : Host.Outcome State Fault Refusal :=
  .next (settle s
    (match s.advance.push s.advance.pc with
      | .error f => .error f
      | .ok t => .ok (t.setPc (zextAddr nnn))))

/-- SE Vx, nn (40_control_flow.md R120). -/
def execSeImm (x : Nibble) (nn : Byte) (s : State) : Host.Outcome State Fault Refusal :=
  .next (s.advance.skipIf (s.reg x == nn))

/-- SNE Vx, nn (40_control_flow.md R121). -/
def execSneImm (x : Nibble) (nn : Byte) (s : State) : Host.Outcome State Fault Refusal :=
  .next (s.advance.skipIf (s.reg x != nn))

/-- SE Vx, Vy (40_control_flow.md R122). -/
def execSeReg (x y : Nibble) (s : State) : Host.Outcome State Fault Refusal :=
  .next (s.advance.skipIf (s.reg x == s.reg y))

/-- SNE Vx, Vy (40_control_flow.md R123). -/
def execSneReg (x y : Nibble) (s : State) : Host.Outcome State Fault Refusal :=
  .next (s.advance.skipIf (s.reg x != s.reg y))

/-- JP V0, nnn (40_control_flow.md R124): the unreduced target, `PcOutOfRange` above 4095 (C5). -/
def execJpV0 (nnn : Addr) (s : State) : Host.Outcome State Fault Refusal :=
  .next (settle s
    (if s.jumpTarget nnn > 4095 then .error .pcOutOfRange
      else .ok (s.setPc (BitVec.ofNat 16 (s.jumpTarget nnn)))))

end Sys2Proof.Machine
end

