-- ==== Sys2Proof/Machine/Display.lean ====
section
/-! DEFINITION. The display buffer's two writers: `00E0` and `Dxyn` (43_display.md). The drawing is
the rule's own loop over the sprite's set bits. -/

namespace Sys2Proof.Machine

/-- CLS (43_display.md R180): every pixel dark; VF not written. -/
def execCls (s : State) : Host.Outcome State Fault Refusal :=
  .next (s.advance.setDisp Display.dark)

/-- A drawing under way: the display so far, and the collision so far (43_display.md R182). -/
structure Drawing where
  disp : Display
  collision : Bool
deriving DecidableEq, Repr

/-- One set sprite bit on one pixel: a lit pixel is a collision, and the pixel is toggled
(43_display.md R182). -/
def drawPixel (d : Drawing) (row col : Nat) : Drawing :=
  { disp := Display.toggle d.disp row col
    collision := d.collision || Display.lit d.disp row col }

/-- One sprite bit: bit `7 - c` of the byte is column `c` of the sprite, at display column
`(x0 + c) mod 64`; a zero bit changes nothing (43_display.md R181, R182). -/
def drawBit (b : Byte) (x0 row : Nat) (d : Drawing) (c : Nat) : Drawing :=
  if b.getLsbD (7 - c) then drawPixel d row ((x0 + c) % 64) else d

/-- One sprite byte, its columns 0 to 7 (43_display.md R182). -/
def drawRow (b : Byte) (x0 row : Nat) (d : Drawing) : Drawing :=
  [0, 1, 2, 3, 4, 5, 6, 7].foldl (drawBit b x0 row) d

/-- The sprite's bytes from row `r` of the sprite on: byte `r` at display row `(y0 + r) mod 32`
(43_display.md R181, R182). -/
def drawRows : List Byte → Nat → Nat → Nat → Drawing → Drawing
  | [], _, _, _, d => d
  | b :: bs, x0, y0, r, d => drawRows bs x0 y0 (r + 1) (drawRow b x0 ((y0 + r) % 32) d)

/-- A sprite drawn on a display: its bytes, its origin's column and row (43_display.md R182). -/
def drawSprite (bs : List Byte) (x0 y0 : Nat) (d : Display) : Drawing :=
  drawRows bs x0 y0 0 { disp := d, collision := false }

/-- The state after a drawing: the display, then VF = collision (43_display.md R182). -/
def State.setDrawing (s : State) (d : Drawing) : State :=
  (s.setDisp d.disp).setFlag (flagByte d.collision)

/-- DRW Vx, Vy, n (43_display.md R182): the coordinates are read before VF is written (D11); a sprite
byte above 4095 faults before anything is drawn. -/
def execDrw (x y n : Nibble) (s : State) : Host.Outcome State Fault Refusal :=
  .next (settle s
    (match s.readBytes s.base n.toNat with
      | .error f => .error f
      | .ok bs => .ok (s.advance.setDrawing
          (drawSprite bs (s.originColumn x) (s.originRow y) s.disp))))

end Sys2Proof.Machine
end

