-- ==== Sys2Proof/Machine/IndexMemory.lean ====
section
/-! DEFINITION. Index register and memory instructions: `Annn`, `Fx1E`, `Fx33`, `Fx55`, `Fx65`
(42_index_memory.md). The transfers leave `I` as it is (D15) and change nothing when an address of
theirs is above 4095 (20_memory.md R64). -/

namespace Sys2Proof.Machine

/-- LD I, nnn (42_index_memory.md R160). -/
def execLdI (nnn : Addr) (s : State) : Host.Outcome State Fault Refusal :=
  .next (s.advance.setIndex (zextAddr nnn))

/-- ADD I, Vx (42_index_memory.md R161): modulo 65536, VF not written (D16). -/
def execAddI (x : Nibble) (s : State) : Host.Outcome State Fault Refusal :=
  .next (s.advance.setIndex (s.i + zextByte (s.reg x)))

/-- LD B, Vx (42_index_memory.md R162): hundreds, tens and units at `I`, `I + 1`, `I + 2`. -/
def execLdBcd (x : Nibble) (s : State) : Host.Outcome State Fault Refusal :=
  .next (settle s (s.advance.writeBytes s.base (decimalDigits (s.reg x))))

/-- LD [I], Vx (42_index_memory.md R163): `V[k]` to `I + k`, `k` from 0 to `x` inclusive. -/
def execStoreRegs (x : Nibble) (s : State) : Host.Outcome State Fault Refusal :=
  .next (settle s (s.advance.writeBytes s.base (s.regsThrough x)))

/-- LD Vx, [I] (42_index_memory.md R164): `V[k]` from `I + k`, `k` from 0 to `x` inclusive. -/
def execLoadRegs (x : Nibble) (s : State) : Host.Outcome State Fault Refusal :=
  .next (settle s
    (match s.readBytes s.base (x.toNat + 1) with
      | .error f => .error f
      | .ok bs => .ok (s.advance.setRegsFrom 0 bs)))

end Sys2Proof.Machine
end

