-- ==== Sys2Proof/Machine/Input.lean ====
section
/-! DEFINITION. Key input instructions: `Ex9E`, `ExA1`, `Fx0A` (44_input.md). The decoder gives them
only when `KEY_OPS` is true (R200, log entry 12). -/

namespace Sys2Proof.Machine

/-- SKP Vx (44_input.md R201): `if key != none and key = V[x] then skip()`. -/
def execSkp (x : Nibble) (s : State) : Host.Outcome State Fault Refusal :=
  .next (s.advance.skipIf (s.keyPressed x))

/-- SKNP Vx (44_input.md R202): `if key = none or key != V[x] then skip()`. -/
def execSknp (x : Nibble) (s : State) : Host.Outcome State Fault Refusal :=
  .next (s.advance.skipIf (!s.keyPressed x))

/-- LD Vx, K (44_input.md R203): with no key, wait (`pc <- pc_f`, so the same word runs at the next
step); with a key, take it. -/
def execLdKey (x : Nibble) (s : State) : Host.Outcome State Fault Refusal :=
  .next
    (match s.key with
      | none => { s.setPc s.pc with waitingForInput := true }
      | some k => { s.advance.setReg x (zextKey k) with waitingForInput := false })

end Sys2Proof.Machine
end

