-- ==== Sys2Proof/Machine/Step.lean ====
section
/-! DEFINITION. One STEP transaction (30_encoding.md R90), its inputs taken from the state. -/

namespace Sys2Proof.Machine

/-- One STEP (30_encoding.md R90): nothing while faulted or halted; else fetch, decode, and the
instruction's meaning, the fetch's fault, or the no-op of an unrecognized word. Every STEP samples
its inputs, an idle one too (10_state.md R51, R54; log entry 3). -/
def step (s : State) : Host.Outcome State Fault Refusal :=
  if s.idle then .next s.consumeInput
  else
    match s.fetchInstr with
    | .error f => .next (s.takeFault f).consumeInput
    | .ok (.error _) => .next s.noOp.consumeInput
    | .ok (.ok i) => consumeOutcome (exec i s)

/-- The state with a table word placed at `pc`, where `step` fetches its next instruction. -/
def State.withFetchWord (s : State) (nbits w : Nat) : State := s.placeWord (tableWord nbits w)

end Sys2Proof.Machine
end

