-- ==== Sys2Proof/Machine/Transactions.lean ====
section
/-! DEFINITION. The block's interface (10_state.md R50 to R58): the STEP transaction with its inputs,
status and diagnostic events, LOAD, SET_STEP_MODE and the read-only views. -/

namespace Sys2Proof.Machine

/-- The status a STEP returns (10_state.md R51). -/
inductive StepStatus where
  /-- An instruction was executed, an unrecognized one included. -/
  | done
  /-- `halted = 1`, nothing done. -/
  | idleHalted
  /-- `fault_code != 0`, nothing done. -/
  | idleFaulted
  /-- This step raised a fault. -/
  | fault
deriving DecidableEq, Repr

/-- A diagnostic event, a side channel that writes no state (10_state.md R57, log entry 11). -/
inductive Diag where
  /-- An instruction was executed. -/
  | trace (pcF w : Word)
  /-- A fetch or skip advance wrapped past 4095. -/
  | pcWrap (pcF : Word)
  /-- An unrecognized encoding was fetched. -/
  | unimplemented (pcF w : Word)
deriving DecidableEq, Repr

/-- The state an outcome ends in: a machine that stopped keeps the state it had. -/
def stateAfter (s : State) : Host.Outcome State Fault Refusal → State
  | .next t => t
  | .fault _ => s
  | .refused _ => s

/-- The state after one STEP. -/
def State.afterStep (s : State) : State := stateAfter s (step s)

/-- The status of the STEP from a state (10_state.md R51; the order of 60_exceptions.md R215). -/
def stepStatus (s : State) : StepStatus :=
  if s.faultCode ≠ 0#3 then .idleFaulted
  else if s.halted then .idleHalted
  else if s.afterStep.faultCode ≠ 0#3 then .fault
  else .done

/-- Whether an instruction takes a skip in a state (40_control_flow.md R120 to R123, 44_input.md R201,
R202). -/
def skipTaken (s : State) : Instr → Bool
  | .seImm x nn => s.reg x == nn
  | .sneImm x nn => s.reg x != nn
  | .seReg x y => s.reg x == s.reg y
  | .sneReg x y => s.reg x != s.reg y
  | .skp x => s.keyPressed x
  | .sknp x => !s.keyPressed x
  | .cls => false
  | .ret => false
  | .jp _ => false
  | .call _ => false
  | .ldImm _ _ => false
  | .addImm _ _ => false
  | .ldReg _ _ => false
  | .orReg _ _ => false
  | .andReg _ _ => false
  | .xorReg _ _ => false
  | .addReg _ _ => false
  | .subReg _ _ => false
  | .shrReg _ _ => false
  | .subnReg _ _ => false
  | .shlReg _ _ => false
  | .ldI _ => false
  | .jpV0 _ => false
  | .rnd _ _ => false
  | .drw _ _ _ => false
  | .ldKey _ => false
  | .addI _ => false
  | .ldBcd _ => false
  | .storeRegs _ => false
  | .loadRegs _ => false

/-- The wrap event of an advance from `pc`, where `pc + 2` passes 4095 (30_encoding.md R90,
40_control_flow.md R114). -/
def wrapEvents (pcF pc : Word) : List Diag := if pc.toNat + 2 > 4095 then [.pcWrap pcF] else []

/-- The events of executing the word fetched at `pc_f` (30_encoding.md R90, R101): a taken skip's
wrap, then the trace, unless the instruction raised a fault. -/
def execEvents (s : State) (w : Word) : List Diag :=
  match decodeWord s.params.keyOps w with
  | .error _ => [.unimplemented s.pc w]
  | .ok i =>
    (if skipTaken s i then wrapEvents s.pc (pcPlus2 s.pc) else []) ++
      (if stepStatus s = .done then [.trace s.pc w] else [])

/-- The diagnostic events of the STEP from a state, in the order of 30_encoding.md R90. -/
def stepEvents (s : State) : List Diag :=
  if s.idle then []
  else
    match s.fetchWord with
    | .error _ => []
    | .ok w => wrapEvents s.pc s.pc ++ execEvents s w

/-- What a STEP transaction gives the host (10_state.md R51). -/
structure StepReport where
  state : State
  status : StepStatus
  events : List Diag
deriving DecidableEq, Repr

/-- STEP with the host's `rnd` and `key` (10_state.md R51, 30_encoding.md R90). -/
def stepTransaction (inp : StepInput) (s : State) : StepReport where
  state := (s.withInput inp).afterStep
  status := stepStatus (s.withInput inp)
  events := stepEvents (s.withInput inp)

/-- The result of a LOAD (10_state.md R52). -/
inductive LoadResult where
  | ok
  | imageTooLarge
deriving DecidableEq, Repr

/-- Write an image's bytes from an address up: `mem[a + i] <- image[i]` (70_reset_and_hazards.md
R243). -/
def State.writeImage : State → Nat → List Byte → State
  | s, _, [] => s
  | s, a, b :: bs => State.writeImage (s.setByte a b) (a + 1) bs

/-- LOAD (70_reset_and_hazards.md R243, R244): the image at 512, `pc <- 512`, the stop states cleared,
the rest kept; an image over 3584 bytes is refused and changes nothing. -/
def load (image : List Byte) (s : State) : LoadResult × State :=
  if image.length ≤ progMax then
    (.ok, ((s.writeImage progBase image).setPc (BitVec.ofNat 16 progBase)).clearStops)
  else (.imageTooLarge, s)

/-- SET_STEP_MODE (10_state.md R58): `step_mode <- bit`, nothing else. -/
def setStepMode (bit : Bool) (s : State) : State := { s with stepMode := bit }

/-- What the read-only views expose (10_state.md R53): memory and stack entries are not exposed. -/
structure View where
  v : Vector Byte 16
  i : Word
  pc : Word
  sp : Nat
  disp : Display
  halted : Bool
  stepMode : Bool
  waitingForInput : Bool
  faultCode : BitVec 3
  faultPc : Word
deriving DecidableEq, Repr

/-- The views of a state; reading them changes nothing (10_state.md R53, R56). -/
def State.view (s : State) : View where
  v := s.v
  i := s.i
  pc := s.pc
  sp := s.sp
  disp := s.disp
  halted := s.halted
  stepMode := s.stepMode
  waitingForInput := s.waitingForInput
  faultCode := s.faultCode
  faultPc := s.faultPc

/-- The state-changing transactions of the interface (10_state.md R50). -/
inductive Transaction where
  | step (inp : StepInput)
  | load (image : List Byte)
  | setStepMode (bit : Bool)
deriving DecidableEq, Repr

/-- The state after a transaction (10_state.md R51, R52, R58). -/
def transact (s : State) : Transaction → State
  | .step inp => (stepTransaction inp s).state
  | .load image => (Sys2Proof.Machine.load image s).2
  | .setStepMode bit => Sys2Proof.Machine.setStepMode bit s

end Sys2Proof.Machine
end

