-- ==== Sys2Proof/Safety.lean ====
section
/-! DEFINITION. The terms in which claims about the machine are stated: the invariant of the states
the block reaches, reachability, and what a step leaves unchanged. -/

namespace Sys2Proof

open Sys2Proof.Machine

/-- The invariant of the states the block reaches. -/
structure Inv (s : State) : Prop where
  /-- Memory keeps its canonical form. -/
  memWf : Memory.wf s.mem = true
  /-- `pc <= 4095` (10_state.md R25). -/
  pcInMemory : s.pc.toNat ≤ 4095
  /-- The stack has `STACK_DEPTH` entries (10_state.md R27). -/
  stackLength : s.stack.length = s.params.stackDepth
  /-- `sp` is 0 to `STACK_DEPTH` (10_state.md R27). -/
  spInStack : s.sp ≤ s.params.stackDepth
  /-- A call pushes 0 to 4095 (40_control_flow.md R110). -/
  entriesInMemory : ∀ a ∈ s.stack, a.toNat ≤ 4095
  /-- The fault codes are 0 to 5 (60_exceptions.md R210). -/
  faultCodeLegal : s.faultCode.toNat ≤ 5
  /-- `fault_pc` is the address of an instruction, or 0 (60_exceptions.md R210). -/
  faultPcInMemory : s.faultPc.toNat ≤ 4095
  /-- Without a fault, the fault record is clear (10_state.md R33). -/
  noFaultNoRecord : s.faultCode = 0#3 → s.faultPc = 0#16
  /-- A fault discards every write of its step (60_exceptions.md R212), so `pc` stays at the faulting
  instruction until a LOAD. -/
  faultPcIsPc : s.faultCode ≠ 0#3 → s.faultPc = s.pc
  /-- A halted block has not faulted: a halted block does not step (10_state.md R30). -/
  haltedNotFaulted : s.halted = true → s.faultCode = 0#3
  /-- Only `1nnn` with `SELF_JUMP_HALT` sets `halted` (10_state.md R30). -/
  haltNeedsParam : s.params.selfJumpHalt = false → s.halted = false
  /-- "With `KEY_OPS` false it stays 0" (10_state.md R32). -/
  waitNeedsParam : s.params.keyOps = false → s.waitingForInput = false

/-- The states the block reaches: from its creation with any parameters, by any transactions with any
inputs (10_state.md R50, 60_exceptions.md R225). -/
inductive Reachable : State → Prop where
  | reset (p : Params) : Reachable (State.resetWith p)
  | transact (s : State) (t : Transaction) : Reachable s → Reachable (transact s t)

/-- Every byte of memory outside a set of addresses reads as before. -/
def MemSameOutside (stored : Nat → Prop) (s t : State) : Prop :=
  ∀ a, ¬ stored a → t.byteAt a = s.byteAt a

/-- Every byte of memory reads as before. -/
def MemSame (s t : State) : Prop := ∀ a, t.byteAt a = s.byteAt a

/-- Every general register outside a set reads as before. -/
def RegsSameOutside (written : Nibble → Prop) (s t : State) : Prop :=
  ∀ j, ¬ written j → t.reg j = s.reg j

/-- Every general register reads as before. -/
def RegsSame (s t : State) : Prop := ∀ j, t.reg j = s.reg j

/-- The call stack, its pointer and all its entries, is as before. -/
def StackSame (s t : State) : Prop := t.sp = s.sp ∧ t.stack = s.stack

/-- Every pixel is as before. -/
def DispSame (s t : State) : Prop := ∀ r c, t.pixel r c = s.pixel r c

/-- `step_mode`, the fault record, and the model's own fields are as before: no instruction writes
any of them unless it faults. -/
def HostSame (s t : State) : Prop :=
  t.stepMode = s.stepMode ∧ t.faultCode = s.faultCode ∧ t.faultPc = s.faultPc ∧
    t.params = s.params ∧ t.inputs = s.inputs ∧ t.inputIndex = s.inputIndex

/-- `halted` and `waiting_for_input` are as before. -/
def ControlSame (s t : State) : Prop :=
  t.halted = s.halted ∧ t.waitingForInput = s.waitingForInput

/-- `pc` has the fetch advance and no more: `(pc_f + 2) mod 4096` (30_encoding.md R90). -/
def PcAdvanced (s t : State) : Prop := t.pc.toNat = (s.pc.toNat + 2) % 4096

/-- `pc` has the fetch advance and the skip's: `(pc_f + 4) mod 4096` (40_control_flow.md R114). -/
def PcSkipped (s t : State) : Prop := t.pc.toNat = (s.pc.toNat + 4) % 4096

/-- The frame of an instruction that writes only `pc`. -/
def OnlyPcChanged (s t : State) : Prop :=
  RegsSame s t ∧ t.i = s.i ∧ MemSame s t ∧ StackSame s t ∧ DispSame s t ∧ ControlSame s t ∧
    HostSame s t

/-- The frame of an instruction that writes the general registers of a set, and has only the fetch
advance. -/
def OnlyRegsChanged (written : Nibble → Prop) (s t : State) : Prop :=
  RegsSameOutside written s t ∧ t.i = s.i ∧ MemSame s t ∧ StackSame s t ∧ DispSame s t ∧
    ControlSame s t ∧ HostSame s t ∧ PcAdvanced s t

/-- The frame of an instruction that stores to a set of addresses, and has only the fetch advance. -/
def OnlyMemChanged (stored : Nat → Prop) (s t : State) : Prop :=
  RegsSame s t ∧ t.i = s.i ∧ MemSameOutside stored s t ∧ StackSame s t ∧ DispSame s t ∧
    ControlSame s t ∧ HostSame s t ∧ PcAdvanced s t

/-- Fault entry (60_exceptions.md R212): `fault_code` and `fault_pc = pc_f` are written, and every
other element, `pc` included, is as when the step began. -/
def FaultTaken (code : BitVec 3) (s t : State) : Prop :=
  t.faultCode = code ∧ t.faultPc = s.pc ∧
    t = { s with faultCode := t.faultCode, faultPc := t.faultPc }

/-- Whether a set bit of the sprite of `n` bytes at `I`, its origin at column `x0` and row `y0`, lands on
the display pixel in row `row`, column `col`: sprite pixel `(r, c)`, bit `7 - c` of byte `r`, lands on
row `(y0 + r) mod 32`, column `(x0 + c) mod 64` (43_display.md R181). -/
def SpriteHits (s : State) (n x0 y0 row col : Nat) : Prop :=
  ∃ r c, r < n ∧ c < 8 ∧ row = (y0 + r) % 32 ∧ col = (x0 + c) % 64 ∧
    (s.byteAt (s.base + r)).getLsbD (7 - c) = true

/-- The frame of an instruction that writes only `I`, and has only the fetch advance. -/
def OnlyIndexChanged (s t : State) : Prop :=
  RegsSame s t ∧ MemSame s t ∧ StackSame s t ∧ DispSame s t ∧ ControlSame s t ∧ HostSame s t ∧
    PcAdvanced s t

/-- Every word that a row of the opcode map selects decodes to the instruction of its fields, whatever
`KEY_OPS` is (30_encoding.md R100). -/
def RowDecodes (pattern mask : Word) (instrOf : Word → Instr) : Prop :=
  ∀ k w, w &&& mask = pattern → decodeWord k w = .ok (instrOf w)

/-- As `RowDecodes`, with `KEY_OPS` true; with `KEY_OPS` false the row's words are unrecognized
(44_input.md R200). -/
def KeyRowDecodes (pattern mask : Word) (instrOf : Word → Instr) : Prop :=
  ∀ w, w &&& mask = pattern →
    decodeWord true w = .ok (instrOf w) ∧ ∀ i, decodeWord false w ≠ .ok i

/-- The general registers an instruction may write (10_state.md R21). -/
def mayWriteReg : Instr → Nibble → Prop
  | .ldImm x _, j => j = x
  | .addImm x _, j => j = x
  | .ldReg x _, j => j = x
  | .orReg x _, j => j = x
  | .andReg x _, j => j = x
  | .xorReg x _, j => j = x
  | .rnd x _, j => j = x
  | .ldKey x, j => j = x
  | .addReg x _, j => j = x ∨ j = flagReg
  | .subReg x _, j => j = x ∨ j = flagReg
  | .shrReg x _, j => j = x ∨ j = flagReg
  | .subnReg x _, j => j = x ∨ j = flagReg
  | .shlReg x _, j => j = x ∨ j = flagReg
  | .drw _ _ _, j => j = flagReg
  | .loadRegs x, j => j.toNat ≤ x.toNat
  | .cls, _ => False
  | .ret, _ => False
  | .jp _, _ => False
  | .call _, _ => False
  | .seImm _ _, _ => False
  | .sneImm _ _, _ => False
  | .seReg _ _, _ => False
  | .sneReg _ _, _ => False
  | .ldI _, _ => False
  | .jpV0 _, _ => False
  | .skp _, _ => False
  | .sknp _, _ => False
  | .addI _, _ => False
  | .ldBcd _, _ => False
  | .storeRegs _, _ => False

end Sys2Proof
end

