-- ==== Sys2Proof/Certificates/Slice0/Obligations.lean ====
section
/-! DEFINITION. What is stated about the model, for the provers: each statement formalises numbered
rules of spec/ (OBLIGATIONS.json names them). An instruction's statement says its encoding, when it
completes and with what result, when it takes a fault, and what it leaves unchanged. -/

open Sys2Proof Sys2Proof.Machine

/-! ## Control transfer (40_control_flow.md) -/

/-- R110: RET pops the return address into `pc`, or faults on an empty stack. The popped entry keeps its
value above `sp` (log entry 7). -/
def Obligations.RetPopsReturnAddress : Prop :=
  RowDecodes 0x00EE#16 0xF0FF#16 (fun _ => .ret) ∧
  ∀ s : State,
    (0 < s.sp → ∃ t, exec .ret s = .next t ∧ t.pc = s.stackEntry (s.sp - 1) ∧ t.sp = s.sp - 1 ∧
      t.stack = s.stack ∧ (Inv s → t.pc.toNat ≤ 4095) ∧
      RegsSame s t ∧ t.i = s.i ∧ MemSame s t ∧ DispSame s t ∧ ControlSame s t ∧ HostSame s t) ∧
    (s.sp = 0 → ∃ t, exec .ret s = .next t ∧ FaultTaken 1#3 s t)

/-- R111: JP jumps, and halts the block on a jump to its own address under `SELF_JUMP_HALT`. -/
def Obligations.JpJumpsAndHaltsOnItself : Prop :=
  RowDecodes 0x1000#16 0xF000#16 (fun w => .jp (fieldNNN w)) ∧
  ∀ (nnn : Addr) (s : State), ∃ t, exec (.jp nnn) s = .next t ∧ t.pc.toNat = nnn.toNat ∧
    (s.params.selfJumpHalt = true ∧ nnn.toNat = s.pc.toNat → t.halted = true) ∧
    (¬ (s.params.selfJumpHalt = true ∧ nnn.toNat = s.pc.toNat) → t.halted = s.halted) ∧
    RegsSame s t ∧ t.i = s.i ∧ MemSame s t ∧ StackSame s t ∧ DispSame s t ∧
    t.waitingForInput = s.waitingForInput ∧ HostSame s t

/-- R112: CALL pushes the advanced `pc` and jumps, or faults on a full stack. -/
def Obligations.CallPushesReturnAddress : Prop :=
  RowDecodes 0x2000#16 0xF000#16 (fun w => .call (fieldNNN w)) ∧
  ∀ (nnn : Addr) (s : State),
    (s.sp < s.params.stackDepth → ∃ t, exec (.call nnn) s = .next t ∧ t.pc.toNat = nnn.toNat ∧
      t.sp = s.sp + 1 ∧
      (s.sp < s.stack.length → (t.stackEntry s.sp).toNat = (s.pc.toNat + 2) % 4096) ∧
      (∀ k, k ≠ s.sp → t.stackEntry k = s.stackEntry k) ∧ t.stack.length = s.stack.length ∧
      RegsSame s t ∧ t.i = s.i ∧ MemSame s t ∧ DispSame s t ∧ ControlSame s t ∧ HostSame s t) ∧
    (s.sp = s.params.stackDepth → ∃ t, exec (.call nnn) s = .next t ∧ FaultTaken 2#3 s t)

/-- R120, R121: the skips that compare a register with an immediate. -/
def Obligations.ImmediateSkips : Prop :=
  RowDecodes 0x3000#16 0xF000#16 (fun w => .seImm (fieldX w) (fieldNN w)) ∧
  RowDecodes 0x4000#16 0xF000#16 (fun w => .sneImm (fieldX w) (fieldNN w)) ∧
  ∀ (x : Nibble) (nn : Byte) (s : State),
    (∃ t, exec (.seImm x nn) s = .next t ∧ (s.reg x = nn → PcSkipped s t) ∧
      (s.reg x ≠ nn → PcAdvanced s t) ∧ OnlyPcChanged s t) ∧
    (∃ t, exec (.sneImm x nn) s = .next t ∧ (s.reg x ≠ nn → PcSkipped s t) ∧
      (s.reg x = nn → PcAdvanced s t) ∧ OnlyPcChanged s t)

/-- R122, R123: the skips that compare two registers; the nibble `n` is ignored. -/
def Obligations.RegisterSkips : Prop :=
  RowDecodes 0x5000#16 0xF000#16 (fun w => .seReg (fieldX w) (fieldY w)) ∧
  RowDecodes 0x9000#16 0xF000#16 (fun w => .sneReg (fieldX w) (fieldY w)) ∧
  ∀ (x y : Nibble) (s : State),
    (∃ t, exec (.seReg x y) s = .next t ∧ (s.reg x = s.reg y → PcSkipped s t) ∧
      (s.reg x ≠ s.reg y → PcAdvanced s t) ∧ OnlyPcChanged s t) ∧
    (∃ t, exec (.sneReg x y) s = .next t ∧ (s.reg x ≠ s.reg y → PcSkipped s t) ∧
      (s.reg x = s.reg y → PcAdvanced s t) ∧ OnlyPcChanged s t)

/-- R124: JP V0 jumps to `nnn + V[0]`, or faults when that is above 4095. -/
def Obligations.JpV0JumpsOrFaults : Prop :=
  RowDecodes 0xB000#16 0xF000#16 (fun w => .jpV0 (fieldNNN w)) ∧
  ∀ (nnn : Addr) (s : State),
    (nnn.toNat + (s.reg 0#4).toNat ≤ 4095 → ∃ t, exec (.jpV0 nnn) s = .next t ∧
      t.pc.toNat = nnn.toNat + (s.reg 0#4).toNat ∧ OnlyPcChanged s t) ∧
    (4095 < nnn.toNat + (s.reg 0#4).toNat →
      ∃ t, exec (.jpV0 nnn) s = .next t ∧ FaultTaken 4#3 s t)

/-! ## Registers and arithmetic (41_alu.md) -/

/-- R130: LD Vx, nn. -/
def Obligations.LdImmLoads : Prop :=
  RowDecodes 0x6000#16 0xF000#16 (fun w => .ldImm (fieldX w) (fieldNN w)) ∧
  ∀ (x : Nibble) (nn : Byte) (s : State), ∃ t, exec (.ldImm x nn) s = .next t ∧ t.reg x = nn ∧
    OnlyRegsChanged (fun j => j = x) s t

/-- R131: ADD Vx, nn wraps modulo 256 and writes no flag. -/
def Obligations.AddImmWraps : Prop :=
  RowDecodes 0x7000#16 0xF000#16 (fun w => .addImm (fieldX w) (fieldNN w)) ∧
  ∀ (x : Nibble) (nn : Byte) (s : State), ∃ t, exec (.addImm x nn) s = .next t ∧
    (t.reg x).toNat = ((s.reg x).toNat + nn.toNat) % 256 ∧ OnlyRegsChanged (fun j => j = x) s t

/-- R134: LD Vx, Vy. -/
def Obligations.LdRegCopies : Prop :=
  RowDecodes 0x8000#16 0xF00F#16 (fun w => .ldReg (fieldX w) (fieldY w)) ∧
  ∀ (x y : Nibble) (s : State), ∃ t, exec (.ldReg x y) s = .next t ∧ t.reg x = s.reg y ∧
    OnlyRegsChanged (fun j => j = x) s t

/-- R135, R136, R137: OR, AND and XOR, bit by bit; VF is not written unless it is the destination. -/
def Obligations.LogicOpsBitwise : Prop :=
  RowDecodes 0x8001#16 0xF00F#16 (fun w => .orReg (fieldX w) (fieldY w)) ∧
  RowDecodes 0x8002#16 0xF00F#16 (fun w => .andReg (fieldX w) (fieldY w)) ∧
  RowDecodes 0x8003#16 0xF00F#16 (fun w => .xorReg (fieldX w) (fieldY w)) ∧
  ∀ (x y : Nibble) (s : State),
    (∃ t, exec (.orReg x y) s = .next t ∧ OnlyRegsChanged (fun j => j = x) s t ∧
      ∀ k < 8, (t.reg x).getLsbD k = ((s.reg x).getLsbD k || (s.reg y).getLsbD k)) ∧
    (∃ t, exec (.andReg x y) s = .next t ∧ OnlyRegsChanged (fun j => j = x) s t ∧
      ∀ k < 8, (t.reg x).getLsbD k = ((s.reg x).getLsbD k && (s.reg y).getLsbD k)) ∧
    (∃ t, exec (.xorReg x y) s = .next t ∧ OnlyRegsChanged (fun j => j = x) s t ∧
      ∀ k < 8, (t.reg x).getLsbD k = ((s.reg x).getLsbD k ^^ (s.reg y).getLsbD k))

/-- R138: ADD Vx, Vy wraps modulo 256; VF ends holding the carry, whatever `x` and `y` are. -/
def Obligations.AddRegCarries : Prop :=
  RowDecodes 0x8004#16 0xF00F#16 (fun w => .addReg (fieldX w) (fieldY w)) ∧
  ∀ (x y : Nibble) (s : State), ∃ t, exec (.addReg x y) s = .next t ∧
    (x ≠ 0xF#4 → (t.reg x).toNat = ((s.reg x).toNat + (s.reg y).toNat) % 256) ∧
    t.reg 0xF#4 = (if (s.reg x).toNat + (s.reg y).toNat > 255 then 1#8 else 0#8) ∧
    OnlyRegsChanged (fun j => j = x ∨ j = 0xF#4) s t

/-- R139: SUB Vx, Vy; VF ends holding the no-borrow flag, 1 at equality. -/
def Obligations.SubRegBorrows : Prop :=
  RowDecodes 0x8005#16 0xF00F#16 (fun w => .subReg (fieldX w) (fieldY w)) ∧
  ∀ (x y : Nibble) (s : State), ∃ t, exec (.subReg x y) s = .next t ∧
    (x ≠ 0xF#4 → (t.reg x).toNat = ((s.reg x).toNat + 256 - (s.reg y).toNat) % 256) ∧
    t.reg 0xF#4 = (if (s.reg x).toNat ≥ (s.reg y).toNat then 1#8 else 0#8) ∧
    OnlyRegsChanged (fun j => j = x ∨ j = 0xF#4) s t

/-- R140: SHR Vx, Vy shifts `V[y]`; VF ends holding its bit 0. -/
def Obligations.ShrShiftsVy : Prop :=
  RowDecodes 0x8006#16 0xF00F#16 (fun w => .shrReg (fieldX w) (fieldY w)) ∧
  ∀ (x y : Nibble) (s : State), ∃ t, exec (.shrReg x y) s = .next t ∧
    (x ≠ 0xF#4 → (t.reg x).toNat = (s.reg y).toNat / 2) ∧
    t.reg 0xF#4 = (if (s.reg y).toNat % 2 = 1 then 1#8 else 0#8) ∧
    OnlyRegsChanged (fun j => j = x ∨ j = 0xF#4) s t

/-- R141: SUBN Vx, Vy is `V[y] - V[x]`; VF ends holding the no-borrow flag, 1 at equality. -/
def Obligations.SubnRegBorrows : Prop :=
  RowDecodes 0x8007#16 0xF00F#16 (fun w => .subnReg (fieldX w) (fieldY w)) ∧
  ∀ (x y : Nibble) (s : State), ∃ t, exec (.subnReg x y) s = .next t ∧
    (x ≠ 0xF#4 → (t.reg x).toNat = ((s.reg y).toNat + 256 - (s.reg x).toNat) % 256) ∧
    t.reg 0xF#4 = (if (s.reg y).toNat ≥ (s.reg x).toNat then 1#8 else 0#8) ∧
    OnlyRegsChanged (fun j => j = x ∨ j = 0xF#4) s t

/-- R142: SHL Vx, Vy shifts `V[y]`; VF ends holding its bit 7. -/
def Obligations.ShlShiftsVy : Prop :=
  RowDecodes 0x800E#16 0xF00F#16 (fun w => .shlReg (fieldX w) (fieldY w)) ∧
  ∀ (x y : Nibble) (s : State), ∃ t, exec (.shlReg x y) s = .next t ∧
    (x ≠ 0xF#4 → (t.reg x).toNat = (s.reg y).toNat * 2 % 256) ∧
    t.reg 0xF#4 = (if (s.reg y).toNat ≥ 128 then 1#8 else 0#8) ∧
    OnlyRegsChanged (fun j => j = x ∨ j = 0xF#4) s t

/-- R145: RND Vx, nn masks the STEP's random byte, whatever that byte is (it stands in `inputs`, log
entry 2). -/
def Obligations.RndMasksInput : Prop :=
  RowDecodes 0xC000#16 0xF000#16 (fun w => .rnd (fieldX w) (fieldNN w)) ∧
  ∀ (x : Nibble) (nn r : Byte) (key : Option Nibble) (s : State),
    ∃ t, exec (.rnd x nn) (s.withInput ⟨r, key⟩) = .next t ∧ t.reg x = r &&& nn ∧
      OnlyRegsChanged (fun j => j = x) (s.withInput ⟨r, key⟩) t

/-! ## Index register and memory (42_index_memory.md) -/

/-- R160: LD I, nnn. -/
def Obligations.LdILoads : Prop :=
  RowDecodes 0xA000#16 0xF000#16 (fun w => .ldI (fieldNNN w)) ∧
  ∀ (nnn : Addr) (s : State), ∃ t, exec (.ldI nnn) s = .next t ∧ t.i.toNat = nnn.toNat ∧
    OnlyIndexChanged s t

/-- R161: ADD I, Vx wraps modulo 65536, never faults, and leaves VF. -/
def Obligations.AddIWraps : Prop :=
  RowDecodes 0xF01E#16 0xF0FF#16 (fun w => .addI (fieldX w)) ∧
  ∀ (x : Nibble) (s : State), ∃ t, exec (.addI x) s = .next t ∧
    t.i.toNat = (s.i.toNat + (s.reg x).toNat) % 65536 ∧ OnlyIndexChanged s t

/-- R162: LD B, Vx stores the three decimal digits, or faults and stores nothing. -/
def Obligations.LdBcdStoresDigits : Prop :=
  RowDecodes 0xF033#16 0xF0FF#16 (fun w => .ldBcd (fieldX w)) ∧
  ∀ (x : Nibble) (s : State),
    (s.base + 2 ≤ 4095 → ∃ t, exec (.ldBcd x) s = .next t ∧
      (t.byteAt s.base).toNat = (s.reg x).toNat / 100 ∧
      (t.byteAt (s.base + 1)).toNat = (s.reg x).toNat / 10 % 10 ∧
      (t.byteAt (s.base + 2)).toNat = (s.reg x).toNat % 10 ∧
      OnlyMemChanged (fun a => s.base ≤ a ∧ a ≤ s.base + 2) s t) ∧
    (4095 < s.base + 2 → ∃ t, exec (.ldBcd x) s = .next t ∧ FaultTaken 3#3 s t)

/-- R163: LD [I], Vx stores `V[0]` to `V[x]`, or faults and stores nothing. -/
def Obligations.StoreRegsStores : Prop :=
  RowDecodes 0xF055#16 0xF0FF#16 (fun w => .storeRegs (fieldX w)) ∧
  ∀ (x : Nibble) (s : State),
    (s.base + x.toNat ≤ 4095 → ∃ t, exec (.storeRegs x) s = .next t ∧
      (∀ k : Nibble, k.toNat ≤ x.toNat → t.byteAt (s.base + k.toNat) = s.reg k) ∧
      OnlyMemChanged (fun a => s.base ≤ a ∧ a ≤ s.base + x.toNat) s t) ∧
    (4095 < s.base + x.toNat → ∃ t, exec (.storeRegs x) s = .next t ∧ FaultTaken 3#3 s t)

/-- R164: LD Vx, [I] loads `V[0]` to `V[x]`, or faults and loads nothing. -/
def Obligations.LoadRegsLoads : Prop :=
  RowDecodes 0xF065#16 0xF0FF#16 (fun w => .loadRegs (fieldX w)) ∧
  ∀ (x : Nibble) (s : State),
    (s.base + x.toNat ≤ 4095 → ∃ t, exec (.loadRegs x) s = .next t ∧
      (∀ k : Nibble, k.toNat ≤ x.toNat → t.reg k = s.byteAt (s.base + k.toNat)) ∧
      OnlyRegsChanged (fun j => j.toNat ≤ x.toNat) s t) ∧
    (4095 < s.base + x.toNat → ∃ t, exec (.loadRegs x) s = .next t ∧ FaultTaken 3#3 s t)

/-! ## Display (43_display.md) -/

/-- R180: CLS. -/
def Obligations.ClsClearsDisplay : Prop :=
  RowDecodes 0x00E0#16 0xF0FF#16 (fun _ => .cls) ∧
  ∀ s : State, ∃ t, exec .cls s = .next t ∧
    (∀ r c, r < 32 → c < 64 → t.pixel r c = false) ∧ RegsSame s t ∧ t.i = s.i ∧ MemSame s t ∧
    StackSame s t ∧ ControlSame s t ∧ HostSame s t ∧ PcAdvanced s t

/-- R181, and the pseudocode, flags and exceptions of R182: DRW toggles exactly the pixels that a set
sprite bit lands on, with wraparound, and VF is whether one of them was lit; a sprite byte above 4095
faults and draws nothing. R182's remark on drawing twice is log entry 14. -/
def Obligations.DrwTogglesSpritePixels : Prop :=
  RowDecodes 0xD000#16 0xF000#16 (fun w => .drw (fieldX w) (fieldY w) (fieldN w)) ∧
  ∀ (x y n : Nibble) (s : State),
    (n = 0#4 ∨ s.base + n.toNat ≤ 4096 → ∃ t, exec (.drw x y n) s = .next t ∧
      (∀ row col, row < 32 → col < 64 →
        (SpriteHits s n.toNat ((s.reg x).toNat % 64) ((s.reg y).toNat % 32) row col →
          t.pixel row col = !s.pixel row col) ∧
        (¬ SpriteHits s n.toNat ((s.reg x).toNat % 64) ((s.reg y).toNat % 32) row col →
          t.pixel row col = s.pixel row col)) ∧
      ((∃ row col, row < 32 ∧ col < 64 ∧ s.pixel row col = true ∧
        SpriteHits s n.toNat ((s.reg x).toNat % 64) ((s.reg y).toNat % 32) row col) →
          t.reg 0xF#4 = 1#8) ∧
      ((∀ row col, row < 32 → col < 64 → s.pixel row col = true →
        ¬ SpriteHits s n.toNat ((s.reg x).toNat % 64) ((s.reg y).toNat % 32) row col) →
          t.reg 0xF#4 = 0#8) ∧
      RegsSameOutside (fun j => j = 0xF#4) s t ∧ t.i = s.i ∧ MemSame s t ∧ StackSame s t ∧
      ControlSame s t ∧ HostSame s t ∧ PcAdvanced s t) ∧
    (n ≠ 0#4 ∧ 4096 < s.base + n.toNat → ∃ t, exec (.drw x y n) s = .next t ∧ FaultTaken 3#3 s t)

/-- Drawing the same sprite twice at the same place restores every pixel, and the second draw's VF is
whether a set sprite bit had fallen on a dark pixel at first (log entry 14). -/
def Obligations.DrawTwiceRestoresDisplay : Prop :=
  ∀ (x y n : Nibble) (s t u : State), x ≠ 0xF#4 → y ≠ 0xF#4 → s.base + n.toNat ≤ 4096 →
    exec (.drw x y n) s = .next t → exec (.drw x y n) t = .next u →
    (∀ row col, row < 32 → col < 64 → u.pixel row col = s.pixel row col) ∧
    u.reg 0xF#4 ≤ 1#8 ∧
    (u.reg 0xF#4 = 1#8 ↔ ∃ row col, row < 32 ∧ col < 64 ∧ s.pixel row col = false ∧
      SpriteHits s n.toNat ((s.reg x).toNat % 64) ((s.reg y).toNat % 32) row col)

/-! ## Key input (44_input.md) -/

/-- R201, R202: SKP and SKNP compare the STEP's key with all 8 bits of `V[x]`. -/
def Obligations.KeySkips : Prop :=
  KeyRowDecodes 0xE09E#16 0xF0FF#16 (fun w => .skp (fieldX w)) ∧
  KeyRowDecodes 0xE0A1#16 0xF0FF#16 (fun w => .sknp (fieldX w)) ∧
  ∀ (x : Nibble) (s : State),
    (∃ t, exec (.skp x) s = .next t ∧
      ((∃ k, s.key = some k ∧ k.toNat = (s.reg x).toNat) → PcSkipped s t) ∧
      ((∀ k, s.key = some k → k.toNat ≠ (s.reg x).toNat) → PcAdvanced s t) ∧ OnlyPcChanged s t) ∧
    (∃ t, exec (.sknp x) s = .next t ∧
      ((∀ k, s.key = some k → k.toNat ≠ (s.reg x).toNat) → PcSkipped s t) ∧
      ((∃ k, s.key = some k ∧ k.toNat = (s.reg x).toNat) → PcAdvanced s t) ∧ OnlyPcChanged s t)

/-- R203: LD Vx, K waits by staying at its own address, or takes the key. -/
def Obligations.LdKeyWaitsOrTakes : Prop :=
  KeyRowDecodes 0xF00A#16 0xF0FF#16 (fun w => .ldKey (fieldX w)) ∧
  ∀ (x : Nibble) (s : State),
    (s.key = none → ∃ t, exec (.ldKey x) s = .next t ∧ t.waitingForInput = true ∧ t.pc = s.pc ∧
      RegsSame s t ∧ t.i = s.i ∧ MemSame s t ∧ StackSame s t ∧ DispSame s t ∧
      t.halted = s.halted ∧ HostSame s t) ∧
    (∀ k, s.key = some k → ∃ t, exec (.ldKey x) s = .next t ∧ (t.reg x).toNat = k.toNat ∧
      t.waitingForInput = false ∧ RegsSameOutside (fun j => j = x) s t ∧ t.i = s.i ∧ MemSame s t ∧
      StackSame s t ∧ DispSame s t ∧ t.halted = s.halted ∧ HostSame s t ∧ PcAdvanced s t)

/-! ## Encoding (30_encoding.md) -/

/-- Decoding the encoding of a well-formed instruction gives it back, with the bytes that follow. -/
def Obligations.DecodeInvertsEncode : Prop :=
  ∀ (keyOps : Bool) (i : Instr) (rest : List Byte), i.wellFormed keyOps = true →
    decodeWord keyOps (encode i) = .ok i ∧
    decodeBytes keyOps (encodeBytes i ++ rest) = .ok (i, rest)

/-- A word decodes to an instruction exactly when the instruction is well-formed and the word is its
encoding, but for the bits the decoder ignores. -/
def Obligations.DecodedWordIsTheEncoding : Prop :=
  ∀ (keyOps : Bool) (w : Word) (i : Instr),
    decodeWord keyOps w = .ok i ↔ i.wellFormed keyOps = true ∧ encode i = w &&& ~~~ ignoredBits i

/-- A decoded word is selected by its instruction's row of the opcode map, and by no other row. -/
def Obligations.OpcodeRowsSelectDisjointWords : Prop :=
  (∀ (keyOps : Bool) (w : Word) (i : Instr), decodeWord keyOps w = .ok i →
    (opcodeRow i).selects w = true) ∧
  ∀ (w : Word) (p q : OpcodeRow), p ∈ opcodeMap → q ∈ opcodeMap → p.selects w = true →
    q.selects w = true → p = q

/-- The unrecognized space is exactly the words the spec lists, family by family. -/
def Obligations.UnrecognizedSpaceExact : Prop :=
  ∀ (keyOps : Bool) (w : Word), (∃ e, decodeWord keyOps w = .error e) ↔
    (fieldFamily w = 0x0#4 ∧ fieldNN w ≠ 0xE0#8 ∧ fieldNN w ≠ 0xEE#8) ∨
    (fieldFamily w = 0x8#4 ∧ fieldN w ∈ [0x8#4, 0x9#4, 0xA#4, 0xB#4, 0xC#4, 0xD#4, 0xF#4]) ∨
    (fieldFamily w = 0xE#4 ∧ (keyOps = false ∨ (fieldNN w ≠ 0x9E#8 ∧ fieldNN w ≠ 0xA1#8))) ∨
    (fieldFamily w = 0xF#4 ∧ fieldNN w ∉ [0x1E#8, 0x33#8, 0x55#8, 0x65#8] ∧
      ¬ (keyOps = true ∧ fieldNN w = 0x0A#8))

/-- Words of the spec's examples, one family each, decode to the instructions they stand for. -/
def Obligations.SpecWordsDecode : Prop :=
  decodeWord true 0x05EE#16 = .ok .ret ∧ decodeWord true 0x2300#16 = .ok (.call 0x300#12) ∧
  decodeWord true 0x5121#16 = .ok (.seReg 1#4 2#4) ∧ decodeWord true 0x812E#16 = .ok (.shlReg 1#4 2#4) ∧
  decodeWord true 0xF533#16 = .ok (.ldBcd 5#4) ∧ decodeWord true 0xD013#16 = .ok (.drw 0#4 1#4 3#4) ∧
  decodeWord true 0xE19E#16 = .ok (.skp 1#4) ∧
  decodeWord false 0xE19E#16 = .error (.unassignedE 0xE19E#16)

/-! ## The step (30_encoding.md R90 to R101, 60_exceptions.md) -/

/-- A step runs the instruction that the two bytes at `pc`, big-endian, decode to; around `exec` it
only moves on to the inputs of the next STEP. -/
def Obligations.StepRunsDecodedInstruction : Prop :=
  ∀ (s : State) (i : Instr), s.faultCode = 0#3 → s.halted = false → s.pc.toNat ≤ 4094 →
    decodeWord s.params.keyOps (wordOfBytes (s.byteAt s.pc.toNat) (s.byteAt (s.pc.toNat + 1))) = .ok i →
    step s = consumeOutcome (exec i s)

/-- An unrecognized word has exactly the effect of its fetch, raises no fault, and is reported (the STEP
samples its inputs all the same, log entry 2; the event, log entry 11). -/
def Obligations.UnrecognizedWordIsNoOp : Prop :=
  ∀ (s : State) (w : Word) (e : DecodeError), s.idle = false → s.fetchWord = .ok w →
    decodeWord s.params.keyOps w = .error e →
    ∃ t, step s = .next t ∧ OnlyPcChanged s.consumeInput t ∧ PcAdvanced s t ∧
      stepStatus s = .done ∧ Diag.unimplemented s.pc w ∈ stepEvents s

/-- A STEP while faulted or halted changes nothing of the block and says which; a fault comes first. That
it also passes its inputs by is the model's choice (log entry 3). -/
def Obligations.IdleStepChangesNothing : Prop :=
  ∀ s : State,
    (s.faultCode ≠ 0#3 → step s = .next s.consumeInput ∧ stepStatus s = .idleFaulted ∧
      stepEvents s = []) ∧
    (s.faultCode = 0#3 → s.halted = true → step s = .next s.consumeInput ∧
      stepStatus s = .idleHalted ∧ stepEvents s = [])

/-- A stopped block stays as it is for any number of STEPs, whose inputs pass by (log entry 3). -/
def Obligations.StoppedBlockStaysStopped : Prop :=
  ∀ (s : State) (k : Nat), s.idle = true →
    Host.Core.run core k s =
      .next { s with inputs := s.inputs.drop k, inputIndex := s.inputIndex + k }

/-- R91: a fetch at 4095 faults before reading anything; a fetch at 4094 reads the last two bytes and
wraps `pc` to 0. -/
def Obligations.FetchAtTopOfMemory : Prop :=
  ∀ s : State, s.idle = false →
    (s.pc.toNat = 4095 → stepStatus s = .fault ∧
      ∃ t, step s = .next t ∧ FaultTaken 5#3 s.consumeInput t) ∧
    (s.pc.toNat = 4094 →
      s.fetchWord = .ok (wordOfBytes (s.byteAt 4094) (s.byteAt 4095)) ∧ s.advance.pc = 0#16)

/-- Every STEP ends in a next state: no instruction, word or state stops the model. -/
def Obligations.EveryStepAnswersNext : Prop :=
  ∀ s : State, ∃ t, step s = .next t

/-- A step that raises a fault leaves every element but the fault record as it was when the step
began, `pc` included, records the fault's code and `pc_f`, and returns `fault`. -/
def Obligations.FaultsArePrecise : Prop :=
  ∀ s t : State, step s = .next t → t.faultCode ≠ s.faultCode →
    s.idle = false ∧ stepStatus s = .fault ∧ 1 ≤ t.faultCode.toNat ∧ t.faultCode.toNat ≤ 5 ∧
    FaultTaken t.faultCode s.consumeInput t

/-- A `pc_wrap` event is emitted exactly when the fetch advance or a taken skip's advance passes 4095
(events are modelled by choice, log entry 11). -/
def Obligations.WrapIsDiagnosed : Prop :=
  ∀ (s : State) (a : Word), s.idle = false →
    (Diag.pcWrap a ∈ stepEvents s ↔ a = s.pc ∧
      (s.pc.toNat = 4094 ∨ ((s.pc.toNat = 4092 ∨ s.pc.toNat = 4093) ∧
        ∃ w i, s.fetchWord = .ok w ∧ decodeWord s.params.keyOps w = .ok i ∧ skipTaken s i = true)))

/-! ## Reset, LOAD, SET_STEP_MODE (10_state.md, 70_reset_and_hazards.md) -/

/-- R37: every element the spec lists has the reset value the spec gives it. -/
def Obligations.ResetValues : Prop :=
  ∀ p : Params,
    (∀ a, (State.resetWith p).byteAt a = 0#8) ∧ (∀ x, (State.resetWith p).reg x = 0#8) ∧
    (State.resetWith p).i = 0#16 ∧ (State.resetWith p).pc = 0x200#16 ∧ (State.resetWith p).sp = 0 ∧
    (State.resetWith p).stack.length = p.stackDepth ∧
    (∀ k, (State.resetWith p).stackEntry k = 0#16) ∧
    (∀ r c, (State.resetWith p).pixel r c = false) ∧ (State.resetWith p).halted = false ∧
    (State.resetWith p).stepMode = false ∧ (State.resetWith p).waitingForInput = false ∧
    (State.resetWith p).faultCode = 0#3 ∧ (State.resetWith p).faultPc = 0#16

/-- R243: LOAD writes the image at 512, sets `pc`, clears the stop states, and keeps the rest. -/
def Obligations.LoadWritesImage : Prop :=
  ∀ (image : List Byte) (s : State), image.length ≤ 3584 →
    ∃ t, load image s = (.ok, t) ∧ (∀ k (h : k < image.length), t.byteAt (512 + k) = image[k]) ∧
      MemSameOutside (fun a => 512 ≤ a ∧ a < 512 + image.length) s t ∧ t.pc = 512#16 ∧
      t.halted = false ∧ t.waitingForInput = false ∧ t.faultCode = 0#3 ∧ t.faultPc = 0#16 ∧
      RegsSame s t ∧ t.i = s.i ∧ StackSame s t ∧ DispSame s t ∧ t.stepMode = s.stepMode ∧
      t.params = s.params ∧ t.inputs = s.inputs ∧ t.inputIndex = s.inputIndex

/-- R244: an image over 3584 bytes is refused and changes nothing. -/
def Obligations.LoadRefusesLargeImage : Prop :=
  ∀ (image : List Byte) (s : State), 3584 < image.length → load image s = (.imageTooLarge, s)

/-- R58: SET_STEP_MODE writes `step_mode` and nothing else. -/
def Obligations.SetStepModeWritesOneBit : Prop :=
  ∀ (bit : Bool) (s : State), (setStepMode bit s).stepMode = bit ∧
    ∃ old, s = { setStepMode bit s with stepMode := old }

/-- Before any LOAD the block runs no-ops: `pc` goes up by 2 with each STEP, modulo 4096, and nothing
else of the block changes. -/
def Obligations.StepsWithoutLoad : Prop :=
  ∀ (p : Params) (k : Nat), Host.Core.run core k (State.resetWith p) =
    .next { State.resetWith p with pc := BitVec.ofNat 16 ((512 + 2 * k) % 4096), inputIndex := k }

/-! ## Invariants -/

/-- The invariant holds after reset, whatever the parameters. -/
def Obligations.InvariantAtReset : Prop := ∀ p : Params, Inv (State.resetWith p)

/-- Every step keeps the invariant. -/
def Obligations.StepKeepsInvariant : Prop :=
  ∀ s t : State, Inv s → step s = .next t → Inv t

/-- Every state the block reaches, by any transactions with any inputs, meets the invariant. -/
def Obligations.ReachableStatesMeetInvariant : Prop := ∀ s : State, Reachable s → Inv s

/-! ## Whole-machine rules -/

/-- Only CLS and DRW change the display; any other instruction, an unrecognized word or a fault leaves
it. -/
def Obligations.OnlyDisplayWritersChangeDisplay : Prop :=
  ∀ (s t : State) (row col : Nat), step s = .next t → t.pixel row col ≠ s.pixel row col →
    ∃ w i, s.fetchWord = .ok w ∧ decodeWord s.params.keyOps w = .ok i ∧
      (i = .cls ∨ ∃ x y n, i = .drw x y n) ∧ stepStatus s = .done

/-- Only LD B and LD [I] change memory, and only the bytes they store to. -/
def Obligations.OnlyStoresChangeMemory : Prop :=
  ∀ (s t : State) (a : Nat), step s = .next t → t.byteAt a ≠ s.byteAt a →
    ∃ w i, s.fetchWord = .ok w ∧ decodeWord s.params.keyOps w = .ok i ∧
      ((∃ x, i = .ldBcd x ∧ s.base ≤ a ∧ a ≤ s.base + 2) ∨
        ∃ x, i = .storeRegs x ∧ s.base ≤ a ∧ a ≤ s.base + x.toNat)

/-- An instruction changes only the general registers the spec lists for it. -/
def Obligations.RegisterWriters : Prop :=
  ∀ (i : Instr) (s t : State) (j : Nibble), exec i s = .next t → t.reg j ≠ s.reg j → mayWriteReg i j

/-- What changes `I`, the stack and the control flags: only the instructions the spec names; no
instruction changes `step_mode` or the parameters. -/
def Obligations.ControlStateWriters : Prop :=
  ∀ (i : Instr) (s t : State), exec i s = .next t →
    (t.i ≠ s.i → (∃ nnn, i = .ldI nnn) ∨ ∃ x, i = .addI x) ∧
    (¬ StackSame s t → i = .ret ∨ ∃ nnn, i = .call nnn) ∧
    (t.halted ≠ s.halted → ∃ nnn, i = .jp nnn ∧ nnn.toNat = s.pc.toNat ∧
      s.params.selfJumpHalt = true) ∧
    (t.waitingForInput ≠ s.waitingForInput → ∃ x, i = .ldKey x) ∧
    t.stepMode = s.stepMode ∧ t.params = s.params

/-- The random byte reaches nothing but RND. -/
def Obligations.RandomByteReachesOnlyRnd : Prop :=
  ∀ (i : Instr) (s t : State) (r₁ r₂ : Byte) (key : Option Nibble), (∀ x nn, i ≠ .rnd x nn) →
    exec i (s.withInput ⟨r₁, key⟩) = .next t →
    exec i (s.withInput ⟨r₂, key⟩) = .next { t with inputs := ⟨r₂, key⟩ :: s.inputs }

/-- The key reaches nothing but the key instructions. -/
def Obligations.KeyReachesOnlyKeyOps : Prop :=
  ∀ (i : Instr) (s t : State) (r : Byte) (k₁ k₂ : Option Nibble), i.isKeyOp = false →
    exec i (s.withInput ⟨r, k₁⟩) = .next t →
    exec i (s.withInput ⟨r, k₂⟩) = .next { t with inputs := ⟨r, k₂⟩ :: s.inputs }

/-- `step_mode` changes no step's effect. -/
def Obligations.StepModeChangesNoStep : Prop :=
  ∀ (s t : State) (bit : Bool), step s = .next t →
    step (setStepMode bit s) = .next (setStepMode bit t)

/-- A RET that finds the stack as the CALL left it returns to the instruction after the CALL. -/
def Obligations.CallThenRetReturns : Prop :=
  ∀ (nnn : Addr) (s t u : State), s.stack.length = s.params.stackDepth → s.sp < s.params.stackDepth →
    exec (.call nnn) s = .next t → StackSame t u →
    ∃ v, exec .ret u = .next v ∧ v.pc.toNat = (s.pc.toNat + 2) % 4096 ∧ v.sp = s.sp

/-- Registers stored by LD [I], Vx come back by LD Vx, [I], whatever the registers held between. -/
def Obligations.StoreThenLoadRestoresRegisters : Prop :=
  ∀ (x : Nibble) (s t u : State), s.base + x.toNat ≤ 4095 → exec (.storeRegs x) s = .next t →
    MemSame t u → u.i = s.i →
    ∃ v, exec (.loadRegs x) u = .next v ∧ (∀ k : Nibble, k.toNat ≤ x.toNat → v.reg k = s.reg k) ∧
      RegsSameOutside (fun j => j.toNat ≤ x.toNat) u v

/-- A word stored by LD [I], Vx at the next fetch address is what the next step fetches. -/
def Obligations.StoredCodeIsFetched : Prop :=
  ∀ (x j k : Nibble) (s t : State), s.base + x.toNat ≤ 4095 → exec (.storeRegs x) s = .next t →
    k.toNat = j.toNat + 1 → k.toNat ≤ x.toNat → s.base + j.toNat = (s.pc.toNat + 2) % 4096 →
    t.fetchWord = .ok (wordOfBytes (s.reg j) (s.reg k))
end

