-- ==== Sys2Proof/Laws/Decode.lean ====
section
/-! SUPPORT. The bits of the formats, and what each field extraction reads from each format
(30_encoding.md R82, R83); what a mask and a match fix of a word's fields (R100). -/

namespace Sys2Proof

/-! ## The bits of a format -/

theorem getLsbD_formatA (f : Nibble) (nnn : Addr) (i : Nat) :
    (formatA f nnn).getLsbD i = if i < 12 then nnn.getLsbD i else f.getLsbD (i - 12) :=
  BitVec.getLsbD_append

theorem getLsbD_formatXK (f x : Nibble) (nn : Byte) (i : Nat) :
    (formatXK f x nn).getLsbD i =
      if i < 8 then nn.getLsbD i else if i < 12 then x.getLsbD (i - 8) else f.getLsbD (i - 12) := by
  refine (BitVec.getLsbD_append (x := f ++ x) (y := nn)).trans ?_
  rw [BitVec.getLsbD_append]
  congr 1
  split <;> split <;> first | rfl | omega

theorem getLsbD_formatXYN (f x y n : Nibble) (i : Nat) :
    (formatXYN f x y n).getLsbD i =
      if i < 4 then n.getLsbD i else if i < 8 then y.getLsbD (i - 4)
      else if i < 12 then x.getLsbD (i - 8) else f.getLsbD (i - 12) := by
  refine (BitVec.getLsbD_append (x := f ++ x ++ y) (y := n)).trans ?_
  rw [BitVec.getLsbD_append, BitVec.getLsbD_append]
  have e8 : i - 4 - 4 = i - 8 := by omega
  have e12 : i - 4 - 4 - 4 = i - 12 := by omega
  rw [e12, e8]
  by_cases h4 : i < 4
  · simp [h4]
  · by_cases h : i < 8
    · have : i - 4 < 4 := by omega
      simp [h4, h, this]
    · have : ¬ i - 4 < 4 := by omega
      have hh : (i - 8 < 4) = (i < 12) := by apply propext; omega
      simp [h4, h, this, hh]

/-! ## A format under the opcode map's masks -/

theorem formatA_maskF000 (f : Nibble) (nnn : Addr) : formatA f nnn &&& 0xF000#16 = formatA f 0 := by
  apply BitVec.eq_of_getLsbD_eq
  intro i hi
  rw [BitVec.getLsbD_and, getLsbD_formatA, getLsbD_formatA]
  interval_cases i <;> simp

theorem formatXK_maskF000 (f x : Nibble) (nn : Byte) :
    formatXK f x nn &&& 0xF000#16 = formatXK f 0 0 := by
  apply BitVec.eq_of_getLsbD_eq
  intro i hi
  rw [BitVec.getLsbD_and, getLsbD_formatXK, getLsbD_formatXK]
  interval_cases i <;> simp

theorem formatXK_maskF0FF (f x : Nibble) (nn : Byte) :
    formatXK f x nn &&& 0xF0FF#16 = formatXK f 0 nn := by
  apply BitVec.eq_of_getLsbD_eq
  intro i hi
  rw [BitVec.getLsbD_and, getLsbD_formatXK, getLsbD_formatXK]
  interval_cases i <;> simp

theorem formatXYN_maskF000 (f x y n : Nibble) :
    formatXYN f x y n &&& 0xF000#16 = formatXYN f 0 0 0 := by
  apply BitVec.eq_of_getLsbD_eq
  intro i hi
  rw [BitVec.getLsbD_and, getLsbD_formatXYN, getLsbD_formatXYN]
  interval_cases i <;> simp

theorem formatXYN_maskF00F (f x y n : Nibble) :
    formatXYN f x y n &&& 0xF00F#16 = formatXYN f 0 0 n := by
  apply BitVec.eq_of_getLsbD_eq
  intro i hi
  rw [BitVec.getLsbD_and, getLsbD_formatXYN, getLsbD_formatXYN]
  interval_cases i <;> simp

theorem formatXYN_mask000F (f x y n : Nibble) :
    formatXYN f x y n &&& 0x000F#16 = formatXYN 0 0 0 n := by
  apply BitVec.eq_of_getLsbD_eq
  intro i hi
  rw [BitVec.getLsbD_and, getLsbD_formatXYN, getLsbD_formatXYN]
  interval_cases i <;> simp

/-! ## Fields of a format -/

theorem fieldFamily_formatA (f : Nibble) (nnn : Addr) : fieldFamily (formatA f nnn) = f := by
  ext i h
  have h1 : ¬ 12 + i < 12 := by omega
  simp [fieldFamily, getLsbD_formatA, BitVec.getLsbD_eq_getElem h]

theorem fieldNNN_formatA (f : Nibble) (nnn : Addr) : fieldNNN (formatA f nnn) = nnn := by
  ext i h
  simp [fieldNNN, getLsbD_formatA, h]

theorem fieldFamily_formatXK (f x : Nibble) (nn : Byte) : fieldFamily (formatXK f x nn) = f := by
  ext i h
  have h1 : ¬ 12 + i < 8 := by omega
  simp [fieldFamily, getLsbD_formatXK, h1, BitVec.getLsbD_eq_getElem h]

theorem fieldX_formatXK (f x : Nibble) (nn : Byte) : fieldX (formatXK f x nn) = x := by
  ext i h
  have h2 : 8 + i < 12 := by omega
  simp [fieldX, getLsbD_formatXK, h2, BitVec.getLsbD_eq_getElem h]

theorem fieldNN_formatXK (f x : Nibble) (nn : Byte) : fieldNN (formatXK f x nn) = nn := by
  ext i h
  simp [fieldNN, getLsbD_formatXK, h]

theorem fieldFamily_formatXYN (f x y n : Nibble) : fieldFamily (formatXYN f x y n) = f := by
  ext i h
  have h1 : ¬ 12 + i < 4 := by omega
  have h2 : ¬ 12 + i < 8 := by omega
  simp [fieldFamily, getLsbD_formatXYN, h1, h2, BitVec.getLsbD_eq_getElem h]

theorem fieldX_formatXYN (f x y n : Nibble) : fieldX (formatXYN f x y n) = x := by
  ext i h
  have h1 : ¬ 8 + i < 4 := by omega
  have h2 : 8 + i < 12 := by omega
  simp [fieldX, getLsbD_formatXYN, h1, h2, BitVec.getLsbD_eq_getElem h]

theorem fieldY_formatXYN (f x y n : Nibble) : fieldY (formatXYN f x y n) = y := by
  ext i h
  have h2 : 4 + i < 8 := by omega
  simp [fieldY, getLsbD_formatXYN, h2, BitVec.getLsbD_eq_getElem h]

theorem fieldN_formatXYN (f x y n : Nibble) : fieldN (formatXYN f x y n) = n := by
  ext i h
  simp [fieldN, getLsbD_formatXYN, h]

/-! ## A word is its fields -/

/-- Two words are equal when their families and their low twelve bits are. -/
theorem word_eq_of_fields {a b : Word} (hf : fieldFamily a = fieldFamily b)
    (hn : fieldNNN a = fieldNNN b) : a = b := by
  apply BitVec.eq_of_getLsbD_eq
  intro i hi
  by_cases h : i < 12
  · have := congrArg (fun v => BitVec.getLsbD v i) hn
    simpa [fieldNNN, h] using this
  · have := congrArg (fun v => BitVec.getLsbD v (i - 12)) hf
    have e : 12 + (i - 12) = i := by omega
    have h4 : i - 12 < 4 := by omega
    simpa [fieldFamily, e, h4] using this

/-- The low twelve bits are `x`, `y` and `n`. -/
theorem fieldNNN_eq_of_nibbles {a b : Word} (hx : fieldX a = fieldX b) (hy : fieldY a = fieldY b)
    (hn : fieldN a = fieldN b) : fieldNNN a = fieldNNN b := by
  apply BitVec.eq_of_getLsbD_eq
  intro i hi
  by_cases h4 : i < 4
  · have := congrArg (fun v => BitVec.getLsbD v i) hn
    simpa [fieldN, fieldNNN, h4, hi] using this
  · by_cases h8 : i < 8
    · have := congrArg (fun v => BitVec.getLsbD v (i - 4)) hy
      have e : 4 + (i - 4) = i := by omega
      have h : i - 4 < 4 := by omega
      simpa [fieldY, fieldNNN, e, h, hi] using this
    · have := congrArg (fun v => BitVec.getLsbD v (i - 8)) hx
      have e : 8 + (i - 8) = i := by omega
      have h : i - 8 < 4 := by omega
      simpa [fieldX, fieldNNN, e, h, hi] using this

/-- The low byte is `y` and `n`. -/
theorem fieldNN_eq_of_nibbles {a b : Word} (hy : fieldY a = fieldY b) (hn : fieldN a = fieldN b) :
    fieldNN a = fieldNN b := by
  apply BitVec.eq_of_getLsbD_eq
  intro i hi
  by_cases h4 : i < 4
  · have := congrArg (fun v => BitVec.getLsbD v i) hn
    simpa [fieldN, fieldNN, h4, hi] using this
  · have := congrArg (fun v => BitVec.getLsbD v (i - 4)) hy
    have e : 4 + (i - 4) = i := by omega
    have h : i - 4 < 4 := by omega
    simpa [fieldY, fieldNN, e, h, hi] using this

/-! ## What a mask fixes -/

theorem fieldFamily_and (a b : Word) : fieldFamily (a &&& b) = fieldFamily a &&& fieldFamily b := by
  ext i h; simp [fieldFamily]

theorem fieldN_and (a b : Word) : fieldN (a &&& b) = fieldN a &&& fieldN b := by
  ext i h; simp [fieldN]

theorem fieldNN_and (a b : Word) : fieldNN (a &&& b) = fieldNN a &&& fieldNN b := by
  ext i h; simp [fieldNN]

theorem fieldX_and (a b : Word) : fieldX (a &&& b) = fieldX a &&& fieldX b := by
  ext i h; simp [fieldX]

theorem fieldY_and (a b : Word) : fieldY (a &&& b) = fieldY a &&& fieldY b := by
  ext i h; simp [fieldY]

theorem fieldNNN_and (a b : Word) : fieldNNN (a &&& b) = fieldNNN a &&& fieldNNN b := by
  ext i h; simp [fieldNNN]

/-- A word selected by the mask 0xF000 has the match's family (30_encoding.md R100). -/
theorem fieldFamily_of_maskF000 {w p : Word} (h : w &&& 0xF000#16 = p) :
    fieldFamily w = fieldFamily p := by
  have e : fieldFamily 0xF000#16 = BitVec.allOnes 4 := by decide
  rw [← h, fieldFamily_and, e, BitVec.and_allOnes]

/-- A word selected by the mask 0xF00F has the match's family and `n` (30_encoding.md R100). -/
theorem fields_of_maskF00F {w p : Word} (h : w &&& 0xF00F#16 = p) :
    fieldFamily w = fieldFamily p ∧ fieldN w = fieldN p := by
  have e : fieldFamily 0xF00F#16 = BitVec.allOnes 4 := by decide
  have e' : fieldN 0xF00F#16 = BitVec.allOnes 4 := by decide
  constructor
  · rw [← h, fieldFamily_and, e, BitVec.and_allOnes]
  · rw [← h, fieldN_and, e', BitVec.and_allOnes]

/-- A word selected by the mask 0xF0FF has the match's family and `nn` (30_encoding.md R100). -/
theorem fields_of_maskF0FF {w p : Word} (h : w &&& 0xF0FF#16 = p) :
    fieldFamily w = fieldFamily p ∧ fieldNN w = fieldNN p := by
  have e : fieldFamily 0xF0FF#16 = BitVec.allOnes 4 := by decide
  have e' : fieldNN 0xF0FF#16 = BitVec.allOnes 8 := by decide
  constructor
  · rw [← h, fieldFamily_and, e, BitVec.and_allOnes]
  · rw [← h, fieldNN_and, e', BitVec.and_allOnes]

/-! ## Bytes of a word -/

theorem wordOfBytes_high_low (w : Word) : wordOfBytes (highByte w) (lowByte w) = w := by
  apply BitVec.eq_of_getLsbD_eq
  intro i hi
  refine (BitVec.getLsbD_append (x := highByte w) (y := lowByte w)).trans ?_
  by_cases h : i < 8
  · simp [lowByte, h]
  · have e : 8 + (i - 8) = i := by omega
    have h8 : i - 8 < 8 := by omega
    simp [highByte, h, h8, e]

end Sys2Proof
end

