-- ==== Sys2Proof/Laws/State.lean ====
section
/-! SUPPORT. The field lemmas of the state's updates, one per field per update, true by `rfl`, so that
no later proof unfolds a record update. -/

namespace Sys2Proof.Machine

variable (s : State)

/-! ## setByte -/

@[simp] theorem State.setByte_params (a : Nat) (x : Byte) : (s.setByte a x).params = s.params := rfl
@[simp] theorem State.setByte_mem (a : Nat) (x : Byte) : (s.setByte a x).mem = Memory.store s.mem a x := rfl
@[simp] theorem State.setByte_v (a : Nat) (x : Byte) : (s.setByte a x).v = s.v := rfl
@[simp] theorem State.setByte_i (a : Nat) (x : Byte) : (s.setByte a x).i = s.i := rfl
@[simp] theorem State.setByte_pc (a : Nat) (x : Byte) : (s.setByte a x).pc = s.pc := rfl
@[simp] theorem State.setByte_stack (a : Nat) (x : Byte) : (s.setByte a x).stack = s.stack := rfl
@[simp] theorem State.setByte_sp (a : Nat) (x : Byte) : (s.setByte a x).sp = s.sp := rfl
@[simp] theorem State.setByte_disp (a : Nat) (x : Byte) : (s.setByte a x).disp = s.disp := rfl
@[simp] theorem State.setByte_halted (a : Nat) (x : Byte) : (s.setByte a x).halted = s.halted := rfl
@[simp] theorem State.setByte_stepMode (a : Nat) (x : Byte) : (s.setByte a x).stepMode = s.stepMode := rfl
@[simp] theorem State.setByte_waitingForInput (a : Nat) (x : Byte) : (s.setByte a x).waitingForInput = s.waitingForInput := rfl
@[simp] theorem State.setByte_faultCode (a : Nat) (x : Byte) : (s.setByte a x).faultCode = s.faultCode := rfl
@[simp] theorem State.setByte_faultPc (a : Nat) (x : Byte) : (s.setByte a x).faultPc = s.faultPc := rfl
@[simp] theorem State.setByte_inputs (a : Nat) (x : Byte) : (s.setByte a x).inputs = s.inputs := rfl
@[simp] theorem State.setByte_inputIndex (a : Nat) (x : Byte) : (s.setByte a x).inputIndex = s.inputIndex := rfl

/-! ## setReg -/

@[simp] theorem State.setReg_params (x : Nibble) (b : Byte) : (s.setReg x b).params = s.params := rfl
@[simp] theorem State.setReg_mem (x : Nibble) (b : Byte) : (s.setReg x b).mem = s.mem := rfl
@[simp] theorem State.setReg_v (x : Nibble) (b : Byte) : (s.setReg x b).v = s.v.set x.toNat b x.isLt := rfl
@[simp] theorem State.setReg_i (x : Nibble) (b : Byte) : (s.setReg x b).i = s.i := rfl
@[simp] theorem State.setReg_pc (x : Nibble) (b : Byte) : (s.setReg x b).pc = s.pc := rfl
@[simp] theorem State.setReg_stack (x : Nibble) (b : Byte) : (s.setReg x b).stack = s.stack := rfl
@[simp] theorem State.setReg_sp (x : Nibble) (b : Byte) : (s.setReg x b).sp = s.sp := rfl
@[simp] theorem State.setReg_disp (x : Nibble) (b : Byte) : (s.setReg x b).disp = s.disp := rfl
@[simp] theorem State.setReg_halted (x : Nibble) (b : Byte) : (s.setReg x b).halted = s.halted := rfl
@[simp] theorem State.setReg_stepMode (x : Nibble) (b : Byte) : (s.setReg x b).stepMode = s.stepMode := rfl
@[simp] theorem State.setReg_waitingForInput (x : Nibble) (b : Byte) : (s.setReg x b).waitingForInput = s.waitingForInput := rfl
@[simp] theorem State.setReg_faultCode (x : Nibble) (b : Byte) : (s.setReg x b).faultCode = s.faultCode := rfl
@[simp] theorem State.setReg_faultPc (x : Nibble) (b : Byte) : (s.setReg x b).faultPc = s.faultPc := rfl
@[simp] theorem State.setReg_inputs (x : Nibble) (b : Byte) : (s.setReg x b).inputs = s.inputs := rfl
@[simp] theorem State.setReg_inputIndex (x : Nibble) (b : Byte) : (s.setReg x b).inputIndex = s.inputIndex := rfl

/-! ## setIndex -/

@[simp] theorem State.setIndex_params (a : Word) : (s.setIndex a).params = s.params := rfl
@[simp] theorem State.setIndex_mem (a : Word) : (s.setIndex a).mem = s.mem := rfl
@[simp] theorem State.setIndex_v (a : Word) : (s.setIndex a).v = s.v := rfl
@[simp] theorem State.setIndex_i (a : Word) : (s.setIndex a).i = a := rfl
@[simp] theorem State.setIndex_pc (a : Word) : (s.setIndex a).pc = s.pc := rfl
@[simp] theorem State.setIndex_stack (a : Word) : (s.setIndex a).stack = s.stack := rfl
@[simp] theorem State.setIndex_sp (a : Word) : (s.setIndex a).sp = s.sp := rfl
@[simp] theorem State.setIndex_disp (a : Word) : (s.setIndex a).disp = s.disp := rfl
@[simp] theorem State.setIndex_halted (a : Word) : (s.setIndex a).halted = s.halted := rfl
@[simp] theorem State.setIndex_stepMode (a : Word) : (s.setIndex a).stepMode = s.stepMode := rfl
@[simp] theorem State.setIndex_waitingForInput (a : Word) : (s.setIndex a).waitingForInput = s.waitingForInput := rfl
@[simp] theorem State.setIndex_faultCode (a : Word) : (s.setIndex a).faultCode = s.faultCode := rfl
@[simp] theorem State.setIndex_faultPc (a : Word) : (s.setIndex a).faultPc = s.faultPc := rfl
@[simp] theorem State.setIndex_inputs (a : Word) : (s.setIndex a).inputs = s.inputs := rfl
@[simp] theorem State.setIndex_inputIndex (a : Word) : (s.setIndex a).inputIndex = s.inputIndex := rfl

/-! ## setPc -/

@[simp] theorem State.setPc_params (a : Word) : (s.setPc a).params = s.params := rfl
@[simp] theorem State.setPc_mem (a : Word) : (s.setPc a).mem = s.mem := rfl
@[simp] theorem State.setPc_v (a : Word) : (s.setPc a).v = s.v := rfl
@[simp] theorem State.setPc_i (a : Word) : (s.setPc a).i = s.i := rfl
@[simp] theorem State.setPc_pc (a : Word) : (s.setPc a).pc = a := rfl
@[simp] theorem State.setPc_stack (a : Word) : (s.setPc a).stack = s.stack := rfl
@[simp] theorem State.setPc_sp (a : Word) : (s.setPc a).sp = s.sp := rfl
@[simp] theorem State.setPc_disp (a : Word) : (s.setPc a).disp = s.disp := rfl
@[simp] theorem State.setPc_halted (a : Word) : (s.setPc a).halted = s.halted := rfl
@[simp] theorem State.setPc_stepMode (a : Word) : (s.setPc a).stepMode = s.stepMode := rfl
@[simp] theorem State.setPc_waitingForInput (a : Word) : (s.setPc a).waitingForInput = s.waitingForInput := rfl
@[simp] theorem State.setPc_faultCode (a : Word) : (s.setPc a).faultCode = s.faultCode := rfl
@[simp] theorem State.setPc_faultPc (a : Word) : (s.setPc a).faultPc = s.faultPc := rfl
@[simp] theorem State.setPc_inputs (a : Word) : (s.setPc a).inputs = s.inputs := rfl
@[simp] theorem State.setPc_inputIndex (a : Word) : (s.setPc a).inputIndex = s.inputIndex := rfl

/-! ## advance -/

@[simp] theorem State.advance_params : (s.advance).params = s.params := rfl
@[simp] theorem State.advance_mem : (s.advance).mem = s.mem := rfl
@[simp] theorem State.advance_v : (s.advance).v = s.v := rfl
@[simp] theorem State.advance_i : (s.advance).i = s.i := rfl
@[simp] theorem State.advance_pc : (s.advance).pc = pcPlus2 s.pc := rfl
@[simp] theorem State.advance_stack : (s.advance).stack = s.stack := rfl
@[simp] theorem State.advance_sp : (s.advance).sp = s.sp := rfl
@[simp] theorem State.advance_disp : (s.advance).disp = s.disp := rfl
@[simp] theorem State.advance_halted : (s.advance).halted = s.halted := rfl
@[simp] theorem State.advance_stepMode : (s.advance).stepMode = s.stepMode := rfl
@[simp] theorem State.advance_waitingForInput : (s.advance).waitingForInput = s.waitingForInput := rfl
@[simp] theorem State.advance_faultCode : (s.advance).faultCode = s.faultCode := rfl
@[simp] theorem State.advance_faultPc : (s.advance).faultPc = s.faultPc := rfl
@[simp] theorem State.advance_inputs : (s.advance).inputs = s.inputs := rfl
@[simp] theorem State.advance_inputIndex : (s.advance).inputIndex = s.inputIndex := rfl

/-! ## skip -/

@[simp] theorem State.skip_params : (s.skip).params = s.params := rfl
@[simp] theorem State.skip_mem : (s.skip).mem = s.mem := rfl
@[simp] theorem State.skip_v : (s.skip).v = s.v := rfl
@[simp] theorem State.skip_i : (s.skip).i = s.i := rfl
@[simp] theorem State.skip_pc : (s.skip).pc = pcPlus2 s.pc := rfl
@[simp] theorem State.skip_stack : (s.skip).stack = s.stack := rfl
@[simp] theorem State.skip_sp : (s.skip).sp = s.sp := rfl
@[simp] theorem State.skip_disp : (s.skip).disp = s.disp := rfl
@[simp] theorem State.skip_halted : (s.skip).halted = s.halted := rfl
@[simp] theorem State.skip_stepMode : (s.skip).stepMode = s.stepMode := rfl
@[simp] theorem State.skip_waitingForInput : (s.skip).waitingForInput = s.waitingForInput := rfl
@[simp] theorem State.skip_faultCode : (s.skip).faultCode = s.faultCode := rfl
@[simp] theorem State.skip_faultPc : (s.skip).faultPc = s.faultPc := rfl
@[simp] theorem State.skip_inputs : (s.skip).inputs = s.inputs := rfl
@[simp] theorem State.skip_inputIndex : (s.skip).inputIndex = s.inputIndex := rfl

/-! ## setDisp -/

@[simp] theorem State.setDisp_params (d : Display) : (s.setDisp d).params = s.params := rfl
@[simp] theorem State.setDisp_mem (d : Display) : (s.setDisp d).mem = s.mem := rfl
@[simp] theorem State.setDisp_v (d : Display) : (s.setDisp d).v = s.v := rfl
@[simp] theorem State.setDisp_i (d : Display) : (s.setDisp d).i = s.i := rfl
@[simp] theorem State.setDisp_pc (d : Display) : (s.setDisp d).pc = s.pc := rfl
@[simp] theorem State.setDisp_stack (d : Display) : (s.setDisp d).stack = s.stack := rfl
@[simp] theorem State.setDisp_sp (d : Display) : (s.setDisp d).sp = s.sp := rfl
@[simp] theorem State.setDisp_disp (d : Display) : (s.setDisp d).disp = d := rfl
@[simp] theorem State.setDisp_halted (d : Display) : (s.setDisp d).halted = s.halted := rfl
@[simp] theorem State.setDisp_stepMode (d : Display) : (s.setDisp d).stepMode = s.stepMode := rfl
@[simp] theorem State.setDisp_waitingForInput (d : Display) : (s.setDisp d).waitingForInput = s.waitingForInput := rfl
@[simp] theorem State.setDisp_faultCode (d : Display) : (s.setDisp d).faultCode = s.faultCode := rfl
@[simp] theorem State.setDisp_faultPc (d : Display) : (s.setDisp d).faultPc = s.faultPc := rfl
@[simp] theorem State.setDisp_inputs (d : Display) : (s.setDisp d).inputs = s.inputs := rfl
@[simp] theorem State.setDisp_inputIndex (d : Display) : (s.setDisp d).inputIndex = s.inputIndex := rfl

/-! ## setFlag -/

@[simp] theorem State.setFlag_params (b : Byte) : (s.setFlag b).params = s.params := rfl
@[simp] theorem State.setFlag_mem (b : Byte) : (s.setFlag b).mem = s.mem := rfl
@[simp] theorem State.setFlag_v (b : Byte) : (s.setFlag b).v = s.v.set 15 b := rfl
@[simp] theorem State.setFlag_i (b : Byte) : (s.setFlag b).i = s.i := rfl
@[simp] theorem State.setFlag_pc (b : Byte) : (s.setFlag b).pc = s.pc := rfl
@[simp] theorem State.setFlag_stack (b : Byte) : (s.setFlag b).stack = s.stack := rfl
@[simp] theorem State.setFlag_sp (b : Byte) : (s.setFlag b).sp = s.sp := rfl
@[simp] theorem State.setFlag_disp (b : Byte) : (s.setFlag b).disp = s.disp := rfl
@[simp] theorem State.setFlag_halted (b : Byte) : (s.setFlag b).halted = s.halted := rfl
@[simp] theorem State.setFlag_stepMode (b : Byte) : (s.setFlag b).stepMode = s.stepMode := rfl
@[simp] theorem State.setFlag_waitingForInput (b : Byte) : (s.setFlag b).waitingForInput = s.waitingForInput := rfl
@[simp] theorem State.setFlag_faultCode (b : Byte) : (s.setFlag b).faultCode = s.faultCode := rfl
@[simp] theorem State.setFlag_faultPc (b : Byte) : (s.setFlag b).faultPc = s.faultPc := rfl
@[simp] theorem State.setFlag_inputs (b : Byte) : (s.setFlag b).inputs = s.inputs := rfl
@[simp] theorem State.setFlag_inputIndex (b : Byte) : (s.setFlag b).inputIndex = s.inputIndex := rfl

/-! ## setResultFlag -/

@[simp] theorem State.setResultFlag_params (x : Nibble) (r f : Byte) : (s.setResultFlag x r f).params = s.params := rfl
@[simp] theorem State.setResultFlag_mem (x : Nibble) (r f : Byte) : (s.setResultFlag x r f).mem = s.mem := rfl
@[simp] theorem State.setResultFlag_v (x : Nibble) (r f : Byte) : (s.setResultFlag x r f).v = (s.v.set x.toNat r x.isLt).set 15 f := rfl
@[simp] theorem State.setResultFlag_i (x : Nibble) (r f : Byte) : (s.setResultFlag x r f).i = s.i := rfl
@[simp] theorem State.setResultFlag_pc (x : Nibble) (r f : Byte) : (s.setResultFlag x r f).pc = s.pc := rfl
@[simp] theorem State.setResultFlag_stack (x : Nibble) (r f : Byte) : (s.setResultFlag x r f).stack = s.stack := rfl
@[simp] theorem State.setResultFlag_sp (x : Nibble) (r f : Byte) : (s.setResultFlag x r f).sp = s.sp := rfl
@[simp] theorem State.setResultFlag_disp (x : Nibble) (r f : Byte) : (s.setResultFlag x r f).disp = s.disp := rfl
@[simp] theorem State.setResultFlag_halted (x : Nibble) (r f : Byte) : (s.setResultFlag x r f).halted = s.halted := rfl
@[simp] theorem State.setResultFlag_stepMode (x : Nibble) (r f : Byte) : (s.setResultFlag x r f).stepMode = s.stepMode := rfl
@[simp] theorem State.setResultFlag_waitingForInput (x : Nibble) (r f : Byte) : (s.setResultFlag x r f).waitingForInput = s.waitingForInput := rfl
@[simp] theorem State.setResultFlag_faultCode (x : Nibble) (r f : Byte) : (s.setResultFlag x r f).faultCode = s.faultCode := rfl
@[simp] theorem State.setResultFlag_faultPc (x : Nibble) (r f : Byte) : (s.setResultFlag x r f).faultPc = s.faultPc := rfl
@[simp] theorem State.setResultFlag_inputs (x : Nibble) (r f : Byte) : (s.setResultFlag x r f).inputs = s.inputs := rfl
@[simp] theorem State.setResultFlag_inputIndex (x : Nibble) (r f : Byte) : (s.setResultFlag x r f).inputIndex = s.inputIndex := rfl

/-! ## setDrawing -/

@[simp] theorem State.setDrawing_params (d : Drawing) : (s.setDrawing d).params = s.params := rfl
@[simp] theorem State.setDrawing_mem (d : Drawing) : (s.setDrawing d).mem = s.mem := rfl
@[simp] theorem State.setDrawing_v (d : Drawing) : (s.setDrawing d).v = s.v.set 15 (flagByte d.collision) := rfl
@[simp] theorem State.setDrawing_i (d : Drawing) : (s.setDrawing d).i = s.i := rfl
@[simp] theorem State.setDrawing_pc (d : Drawing) : (s.setDrawing d).pc = s.pc := rfl
@[simp] theorem State.setDrawing_stack (d : Drawing) : (s.setDrawing d).stack = s.stack := rfl
@[simp] theorem State.setDrawing_sp (d : Drawing) : (s.setDrawing d).sp = s.sp := rfl
@[simp] theorem State.setDrawing_disp (d : Drawing) : (s.setDrawing d).disp = d.disp := rfl
@[simp] theorem State.setDrawing_halted (d : Drawing) : (s.setDrawing d).halted = s.halted := rfl
@[simp] theorem State.setDrawing_stepMode (d : Drawing) : (s.setDrawing d).stepMode = s.stepMode := rfl
@[simp] theorem State.setDrawing_waitingForInput (d : Drawing) : (s.setDrawing d).waitingForInput = s.waitingForInput := rfl
@[simp] theorem State.setDrawing_faultCode (d : Drawing) : (s.setDrawing d).faultCode = s.faultCode := rfl
@[simp] theorem State.setDrawing_faultPc (d : Drawing) : (s.setDrawing d).faultPc = s.faultPc := rfl
@[simp] theorem State.setDrawing_inputs (d : Drawing) : (s.setDrawing d).inputs = s.inputs := rfl
@[simp] theorem State.setDrawing_inputIndex (d : Drawing) : (s.setDrawing d).inputIndex = s.inputIndex := rfl

/-! ## takeFault -/

@[simp] theorem State.takeFault_params (f : Fault) : (s.takeFault f).params = s.params := rfl
@[simp] theorem State.takeFault_mem (f : Fault) : (s.takeFault f).mem = s.mem := rfl
@[simp] theorem State.takeFault_v (f : Fault) : (s.takeFault f).v = s.v := rfl
@[simp] theorem State.takeFault_i (f : Fault) : (s.takeFault f).i = s.i := rfl
@[simp] theorem State.takeFault_pc (f : Fault) : (s.takeFault f).pc = s.pc := rfl
@[simp] theorem State.takeFault_stack (f : Fault) : (s.takeFault f).stack = s.stack := rfl
@[simp] theorem State.takeFault_sp (f : Fault) : (s.takeFault f).sp = s.sp := rfl
@[simp] theorem State.takeFault_disp (f : Fault) : (s.takeFault f).disp = s.disp := rfl
@[simp] theorem State.takeFault_halted (f : Fault) : (s.takeFault f).halted = s.halted := rfl
@[simp] theorem State.takeFault_stepMode (f : Fault) : (s.takeFault f).stepMode = s.stepMode := rfl
@[simp] theorem State.takeFault_waitingForInput (f : Fault) : (s.takeFault f).waitingForInput = s.waitingForInput := rfl
@[simp] theorem State.takeFault_faultCode (f : Fault) : (s.takeFault f).faultCode = f.code := rfl
@[simp] theorem State.takeFault_faultPc (f : Fault) : (s.takeFault f).faultPc = s.pc := rfl
@[simp] theorem State.takeFault_inputs (f : Fault) : (s.takeFault f).inputs = s.inputs := rfl
@[simp] theorem State.takeFault_inputIndex (f : Fault) : (s.takeFault f).inputIndex = s.inputIndex := rfl

/-! ## clearStops -/

@[simp] theorem State.clearStops_params : (s.clearStops).params = s.params := rfl
@[simp] theorem State.clearStops_mem : (s.clearStops).mem = s.mem := rfl
@[simp] theorem State.clearStops_v : (s.clearStops).v = s.v := rfl
@[simp] theorem State.clearStops_i : (s.clearStops).i = s.i := rfl
@[simp] theorem State.clearStops_pc : (s.clearStops).pc = s.pc := rfl
@[simp] theorem State.clearStops_stack : (s.clearStops).stack = s.stack := rfl
@[simp] theorem State.clearStops_sp : (s.clearStops).sp = s.sp := rfl
@[simp] theorem State.clearStops_disp : (s.clearStops).disp = s.disp := rfl
@[simp] theorem State.clearStops_halted : (s.clearStops).halted = false := rfl
@[simp] theorem State.clearStops_stepMode : (s.clearStops).stepMode = s.stepMode := rfl
@[simp] theorem State.clearStops_waitingForInput : (s.clearStops).waitingForInput = false := rfl
@[simp] theorem State.clearStops_faultCode : (s.clearStops).faultCode = 0#3 := rfl
@[simp] theorem State.clearStops_faultPc : (s.clearStops).faultPc = 0#16 := rfl
@[simp] theorem State.clearStops_inputs : (s.clearStops).inputs = s.inputs := rfl
@[simp] theorem State.clearStops_inputIndex : (s.clearStops).inputIndex = s.inputIndex := rfl

/-! ## consumeInput -/

@[simp] theorem State.consumeInput_params : (s.consumeInput).params = s.params := rfl
@[simp] theorem State.consumeInput_mem : (s.consumeInput).mem = s.mem := rfl
@[simp] theorem State.consumeInput_v : (s.consumeInput).v = s.v := rfl
@[simp] theorem State.consumeInput_i : (s.consumeInput).i = s.i := rfl
@[simp] theorem State.consumeInput_pc : (s.consumeInput).pc = s.pc := rfl
@[simp] theorem State.consumeInput_stack : (s.consumeInput).stack = s.stack := rfl
@[simp] theorem State.consumeInput_sp : (s.consumeInput).sp = s.sp := rfl
@[simp] theorem State.consumeInput_disp : (s.consumeInput).disp = s.disp := rfl
@[simp] theorem State.consumeInput_halted : (s.consumeInput).halted = s.halted := rfl
@[simp] theorem State.consumeInput_stepMode : (s.consumeInput).stepMode = s.stepMode := rfl
@[simp] theorem State.consumeInput_waitingForInput : (s.consumeInput).waitingForInput = s.waitingForInput := rfl
@[simp] theorem State.consumeInput_faultCode : (s.consumeInput).faultCode = s.faultCode := rfl
@[simp] theorem State.consumeInput_faultPc : (s.consumeInput).faultPc = s.faultPc := rfl
@[simp] theorem State.consumeInput_inputs : (s.consumeInput).inputs = s.inputs.tail := rfl
@[simp] theorem State.consumeInput_inputIndex : (s.consumeInput).inputIndex = s.inputIndex + 1 := rfl

/-! ## withInput -/

@[simp] theorem State.withInput_params (inp : StepInput) : (s.withInput inp).params = s.params := rfl
@[simp] theorem State.withInput_mem (inp : StepInput) : (s.withInput inp).mem = s.mem := rfl
@[simp] theorem State.withInput_v (inp : StepInput) : (s.withInput inp).v = s.v := rfl
@[simp] theorem State.withInput_i (inp : StepInput) : (s.withInput inp).i = s.i := rfl
@[simp] theorem State.withInput_pc (inp : StepInput) : (s.withInput inp).pc = s.pc := rfl
@[simp] theorem State.withInput_stack (inp : StepInput) : (s.withInput inp).stack = s.stack := rfl
@[simp] theorem State.withInput_sp (inp : StepInput) : (s.withInput inp).sp = s.sp := rfl
@[simp] theorem State.withInput_disp (inp : StepInput) : (s.withInput inp).disp = s.disp := rfl
@[simp] theorem State.withInput_halted (inp : StepInput) : (s.withInput inp).halted = s.halted := rfl
@[simp] theorem State.withInput_stepMode (inp : StepInput) : (s.withInput inp).stepMode = s.stepMode := rfl
@[simp] theorem State.withInput_waitingForInput (inp : StepInput) : (s.withInput inp).waitingForInput = s.waitingForInput := rfl
@[simp] theorem State.withInput_faultCode (inp : StepInput) : (s.withInput inp).faultCode = s.faultCode := rfl
@[simp] theorem State.withInput_faultPc (inp : StepInput) : (s.withInput inp).faultPc = s.faultPc := rfl
@[simp] theorem State.withInput_inputs (inp : StepInput) : (s.withInput inp).inputs = inp :: s.inputs := rfl
@[simp] theorem State.withInput_inputIndex (inp : StepInput) : (s.withInput inp).inputIndex = s.inputIndex := rfl

/-! ## Reads that an update leaves alone -/

@[simp] theorem State.setByte_reg (a : Nat) (x : Byte) (j : Nibble) : (s.setByte a x).reg j = s.reg j := rfl
@[simp] theorem State.setByte_pixel (a : Nat) (x : Byte) (p q : Nat) : (s.setByte a x).pixel p q = s.pixel p q := rfl
@[simp] theorem State.setReg_byteAt (x : Nibble) (b : Byte) (k : Nat) : (s.setReg x b).byteAt k = s.byteAt k := rfl
@[simp] theorem State.setReg_pixel (x : Nibble) (b : Byte) (p q : Nat) : (s.setReg x b).pixel p q = s.pixel p q := rfl
@[simp] theorem State.setIndex_reg (a : Word) (j : Nibble) : (s.setIndex a).reg j = s.reg j := rfl
@[simp] theorem State.setIndex_byteAt (a : Word) (k : Nat) : (s.setIndex a).byteAt k = s.byteAt k := rfl
@[simp] theorem State.setIndex_pixel (a : Word) (p q : Nat) : (s.setIndex a).pixel p q = s.pixel p q := rfl
@[simp] theorem State.setPc_reg (a : Word) (j : Nibble) : (s.setPc a).reg j = s.reg j := rfl
@[simp] theorem State.setPc_byteAt (a : Word) (k : Nat) : (s.setPc a).byteAt k = s.byteAt k := rfl
@[simp] theorem State.setPc_pixel (a : Word) (p q : Nat) : (s.setPc a).pixel p q = s.pixel p q := rfl
@[simp] theorem State.advance_reg (j : Nibble) : (s.advance).reg j = s.reg j := rfl
@[simp] theorem State.advance_byteAt (k : Nat) : (s.advance).byteAt k = s.byteAt k := rfl
@[simp] theorem State.advance_pixel (p q : Nat) : (s.advance).pixel p q = s.pixel p q := rfl
@[simp] theorem State.skip_reg (j : Nibble) : (s.skip).reg j = s.reg j := rfl
@[simp] theorem State.skip_byteAt (k : Nat) : (s.skip).byteAt k = s.byteAt k := rfl
@[simp] theorem State.skip_pixel (p q : Nat) : (s.skip).pixel p q = s.pixel p q := rfl
@[simp] theorem State.setDisp_reg (d : Display) (j : Nibble) : (s.setDisp d).reg j = s.reg j := rfl
@[simp] theorem State.setDisp_byteAt (d : Display) (k : Nat) : (s.setDisp d).byteAt k = s.byteAt k := rfl
@[simp] theorem State.setFlag_byteAt (b : Byte) (k : Nat) : (s.setFlag b).byteAt k = s.byteAt k := rfl
@[simp] theorem State.setFlag_pixel (b : Byte) (p q : Nat) : (s.setFlag b).pixel p q = s.pixel p q := rfl
@[simp] theorem State.setResultFlag_byteAt (x : Nibble) (r f : Byte) (k : Nat) : (s.setResultFlag x r f).byteAt k = s.byteAt k := rfl
@[simp] theorem State.setResultFlag_pixel (x : Nibble) (r f : Byte) (p q : Nat) : (s.setResultFlag x r f).pixel p q = s.pixel p q := rfl
@[simp] theorem State.setDrawing_byteAt (d : Drawing) (k : Nat) : (s.setDrawing d).byteAt k = s.byteAt k := rfl
@[simp] theorem State.takeFault_reg (f : Fault) (j : Nibble) : (s.takeFault f).reg j = s.reg j := rfl
@[simp] theorem State.takeFault_byteAt (f : Fault) (k : Nat) : (s.takeFault f).byteAt k = s.byteAt k := rfl
@[simp] theorem State.takeFault_pixel (f : Fault) (p q : Nat) : (s.takeFault f).pixel p q = s.pixel p q := rfl
@[simp] theorem State.clearStops_reg (j : Nibble) : (s.clearStops).reg j = s.reg j := rfl
@[simp] theorem State.clearStops_byteAt (k : Nat) : (s.clearStops).byteAt k = s.byteAt k := rfl
@[simp] theorem State.clearStops_pixel (p q : Nat) : (s.clearStops).pixel p q = s.pixel p q := rfl
@[simp] theorem State.consumeInput_reg (j : Nibble) : (s.consumeInput).reg j = s.reg j := rfl
@[simp] theorem State.consumeInput_byteAt (k : Nat) : (s.consumeInput).byteAt k = s.byteAt k := rfl
@[simp] theorem State.consumeInput_pixel (p q : Nat) : (s.consumeInput).pixel p q = s.pixel p q := rfl
@[simp] theorem State.withInput_reg (inp : StepInput) (j : Nibble) : (s.withInput inp).reg j = s.reg j := rfl
@[simp] theorem State.withInput_byteAt (inp : StepInput) (k : Nat) : (s.withInput inp).byteAt k = s.byteAt k := rfl
@[simp] theorem State.withInput_pixel (inp : StepInput) (p q : Nat) : (s.withInput inp).pixel p q = s.pixel p q := rfl

/-! ## skipIf -/

@[simp] theorem State.skipIf_params (c : Bool) : (s.skipIf c).params = s.params := by cases c <;> rfl
@[simp] theorem State.skipIf_mem (c : Bool) : (s.skipIf c).mem = s.mem := by cases c <;> rfl
@[simp] theorem State.skipIf_v (c : Bool) : (s.skipIf c).v = s.v := by cases c <;> rfl
@[simp] theorem State.skipIf_i (c : Bool) : (s.skipIf c).i = s.i := by cases c <;> rfl
@[simp] theorem State.skipIf_pc (c : Bool) : (s.skipIf c).pc = if c then pcPlus2 s.pc else s.pc := by cases c <;> rfl
@[simp] theorem State.skipIf_stack (c : Bool) : (s.skipIf c).stack = s.stack := by cases c <;> rfl
@[simp] theorem State.skipIf_sp (c : Bool) : (s.skipIf c).sp = s.sp := by cases c <;> rfl
@[simp] theorem State.skipIf_disp (c : Bool) : (s.skipIf c).disp = s.disp := by cases c <;> rfl
@[simp] theorem State.skipIf_halted (c : Bool) : (s.skipIf c).halted = s.halted := by cases c <;> rfl
@[simp] theorem State.skipIf_stepMode (c : Bool) : (s.skipIf c).stepMode = s.stepMode := by cases c <;> rfl
@[simp] theorem State.skipIf_waitingForInput (c : Bool) : (s.skipIf c).waitingForInput = s.waitingForInput := by cases c <;> rfl
@[simp] theorem State.skipIf_faultCode (c : Bool) : (s.skipIf c).faultCode = s.faultCode := by cases c <;> rfl
@[simp] theorem State.skipIf_faultPc (c : Bool) : (s.skipIf c).faultPc = s.faultPc := by cases c <;> rfl
@[simp] theorem State.skipIf_inputs (c : Bool) : (s.skipIf c).inputs = s.inputs := by cases c <;> rfl
@[simp] theorem State.skipIf_inputIndex (c : Bool) : (s.skipIf c).inputIndex = s.inputIndex := by cases c <;> rfl
@[simp] theorem State.skipIf_reg (c : Bool) (j : Nibble) : (s.skipIf c).reg j = s.reg j := by cases c <;> rfl
@[simp] theorem State.skipIf_byteAt (c : Bool) (k : Nat) : (s.skipIf c).byteAt k = s.byteAt k := by cases c <;> rfl
@[simp] theorem State.skipIf_pixel (c : Bool) (p q : Nat) : (s.skipIf c).pixel p q = s.pixel p q := by cases c <;> rfl

end Sys2Proof.Machine
end

