-- ==== Sys2Proof/Laws/Display.lean ====
section
/-! SUPPORT. What the display operations do to one pixel (43_display.md R180, R182). -/

namespace Sys2Proof.Machine

/-- Every pixel of the dark display is dark. -/
@[simp] theorem Display.lit_dark (r c : Nat) : Display.dark.lit r c = false := by
  simp only [Display.lit, Display.dark]
  by_cases h : r < 32 <;> simp [h]

/-- Toggling a pixel of the display changes that pixel and no other. -/
theorem Display.lit_toggle (d : Display) (r c p q : Nat) (hr : r < 32) (hc : c < 64) :
    (d.toggle r c).lit p q = if p = r ∧ q = c then !d.lit p q else d.lit p q := by
  simp only [Display.lit, Display.toggle]
  by_cases h : p = r
  · subst h
    by_cases hq : q = c
    · subst hq; simp [hr, hc]
    · have : ¬ c = q := fun e => hq e.symm
      simp [hr, hq, this, BitVec.getLsbD_twoPow]
  · have : r ≠ p := fun e => h e.symm
    simp [h, this]

/-- Drawing one set bit: the pixel is toggled, and a lit one is a collision. -/
theorem drawPixel_lit (d : Drawing) (r c p q : Nat) (hr : r < 32) (hc : c < 64) :
    (drawPixel d r c).disp.lit p q = if p = r ∧ q = c then !d.disp.lit p q else d.disp.lit p q :=
  Display.lit_toggle d.disp r c p q hr hc

@[simp] theorem drawPixel_collision (d : Drawing) (r c : Nat) :
    (drawPixel d r c).collision = (d.collision || d.disp.lit r c) := rfl

/-- The drawing of a state: the pixels are the drawing's. -/
@[simp] theorem State.setDrawing_pixel (s : State) (d : Drawing) (p q : Nat) :
    (s.setDrawing d).pixel p q = d.disp.lit p q := rfl

end Sys2Proof.Machine
end

