-- ==== Sys2Proof/Laws/Memory.lean ====
section
/-! SUPPORT. The laws of memory: a read after a write, and that every memory operation keeps the
canonical form. The read laws hold of every list, canonical or not. -/

namespace Sys2Proof.Machine

theorem Memory.lookup_dropThrough (a k : Nat) (h : a < k) (m : Memory) :
    (Memory.dropThrough a m).lookup k = m.lookup k := by
  induction m with
  | nil => rfl
  | cons c m ih =>
    obtain ⟨b, y⟩ := c
    by_cases hb : b ≤ a
    · have h1 : k ≠ b := by omega
      have h2 : ¬ k < b := by omega
      simp [Memory.dropThrough, Memory.lookup, hb, ih, h1, h2]
    · simp [Memory.dropThrough, hb]

theorem Memory.lookup_dropThrough_le (a k : Nat) (h : k ≤ a) (m : Memory) :
    (Memory.dropThrough a m).lookup k = unlistedByte := by
  induction m with
  | nil => rfl
  | cons c m ih =>
    obtain ⟨b, y⟩ := c
    by_cases hb : b ≤ a
    · simpa [Memory.dropThrough, hb] using ih
    · have h1 : k ≠ b := by omega
      have h2 : k < b := by omega
      simp [Memory.dropThrough, Memory.lookup, hb, h1, h2]

/-- A read after a write to the same address gives the byte written. -/
@[simp] theorem Memory.lookup_store_self (m : Memory) (a : Nat) (x : Byte) :
    (Memory.store m a x).lookup a = x := by
  induction m with
  | nil => by_cases hx : x = unlistedByte <;> simp [Memory.store, Memory.lookup, hx]
  | cons c m ih =>
    obtain ⟨b, y⟩ := c
    by_cases h1 : a < b
    · by_cases hx : x = unlistedByte
      · have : a ≠ b := by omega
        simp [Memory.store, Memory.lookup, h1, hx, this]
      · simp [Memory.store, Memory.lookup, h1, hx]
    · by_cases h2 : a = b
      · subst h2
        by_cases hx : x = unlistedByte
        · simp [Memory.store, hx, Memory.lookup_dropThrough_le]
        · simp [Memory.store, Memory.lookup, hx]
      · simp [Memory.store, Memory.lookup, h1, h2, ih]

/-- A write leaves every other address alone. -/
theorem Memory.lookup_store_ne (m : Memory) (a k : Nat) (x : Byte) (hk : k ≠ a) :
    (Memory.store m a x).lookup k = m.lookup k := by
  induction m with
  | nil =>
    by_cases hx : x = unlistedByte <;> simp [Memory.store, Memory.lookup, hx, hk]
  | cons c m ih =>
    obtain ⟨b, y⟩ := c
    by_cases h1 : a < b
    · by_cases hx : x = unlistedByte
      · simp [Memory.store, h1, hx]
      · by_cases h3 : k < a
        · have h4 : k ≠ b := by omega
          have h5 : k < b := by omega
          simp [Memory.store, Memory.lookup, h1, hx, hk, h3, h4, h5]
        · simp [Memory.store, Memory.lookup, h1, hx, hk, h3]
    · by_cases h2 : a = b
      · subst h2
        by_cases hx : x = unlistedByte
        · rcases Nat.lt_or_gt_of_ne hk with h | h
          · have h5 := Memory.lookup_dropThrough_le a k (by omega) m
            simp [Memory.store, Memory.lookup, hx, hk, h, h5]
          · have h6 : ¬ k < a := by omega
            simp [Memory.store, Memory.lookup, hx, hk, h6, Memory.lookup_dropThrough a k h]
        · simp [Memory.store, Memory.lookup, hx, hk]
      · simp [Memory.store, Memory.lookup, h1, h2, ih]

/-- A canonical memory is canonical from any lower bound. -/
theorem Memory.wfFrom_mono {lo hi : Nat} (h : lo ≤ hi) {m : Memory} (hm : Memory.wfFrom hi m = true) :
    Memory.wfFrom lo m = true := by
  cases m with
  | nil => rfl
  | cons c m =>
    obtain ⟨b, y⟩ := c
    simp only [Memory.wfFrom, Bool.and_eq_true, decide_eq_true_eq] at hm ⊢
    exact ⟨⟨⟨by omega, hm.1.1.2⟩, hm.1.2⟩, hm.2⟩

theorem Memory.dropThrough_of_wfFrom {a : Nat} {m : Memory} (hm : Memory.wfFrom (a + 1) m = true) :
    Memory.dropThrough a m = m := by
  cases m with
  | nil => rfl
  | cons c m =>
    obtain ⟨b, y⟩ := c
    simp only [Memory.wfFrom, Bool.and_eq_true, decide_eq_true_eq] at hm
    have : ¬ b ≤ a := by omega
    simp [Memory.dropThrough, this]

theorem Memory.wfFrom_store {lo a : Nat} (ha : a < memSize) (x : Byte) :
    ∀ {m : Memory}, lo ≤ a → Memory.wfFrom lo m = true → Memory.wfFrom lo (Memory.store m a x) = true := by
  intro m
  induction m generalizing lo with
  | nil =>
    intro hlo _
    by_cases hx : x = unlistedByte
    · simp [Memory.store, hx, Memory.wfFrom]
    · simp [Memory.store, hx, Memory.wfFrom, hlo, ha]
  | cons c m ih =>
    obtain ⟨b, y⟩ := c
    intro hlo hm
    by_cases h1 : a < b
    · by_cases hx : x = unlistedByte
      · simpa [Memory.store, h1, hx] using hm
      · simp only [Memory.wfFrom, Bool.and_eq_true, decide_eq_true_eq] at hm
        simp [Memory.store, h1, hx, Memory.wfFrom, hlo, ha, hm, Nat.succ_le_of_lt h1]
    · by_cases h2 : a = b
      · subst h2
        simp only [Memory.wfFrom, Bool.and_eq_true, decide_eq_true_eq] at hm
        by_cases hx : x = unlistedByte
        · simpa [Memory.store, hx, Memory.dropThrough_of_wfFrom hm.2] using
            Memory.wfFrom_mono (by omega) hm.2
        · simp [Memory.store, hx, Memory.wfFrom, hm]
      · simp only [Memory.wfFrom, Bool.and_eq_true, decide_eq_true_eq] at hm
        have := ih (lo := b + 1) (by omega) hm.2
        simp [Memory.store, h1, h2, Memory.wfFrom, hm, this]

/-- A write of an address of memory keeps the canonical form. -/
theorem Memory.wf_store {m : Memory} (hm : m.wf = true) {a : Nat} (ha : a < memSize) (x : Byte) :
    (Memory.store m a x).wf = true :=
  Memory.wfFrom_store ha x (Nat.zero_le a) hm

/-- Memory after reset is canonical. -/
theorem Memory.wf_reset (p : Params) : (State.resetWith p).mem.wf = true := rfl

theorem State.byteAt_setByte_self (s : State) (a : Nat) (x : Byte) : (s.setByte a x).byteAt a = x :=
  Memory.lookup_store_self s.mem a x

theorem State.byteAt_setByte_ne (s : State) {a k : Nat} (x : Byte) (h : k ≠ a) :
    (s.setByte a x).byteAt k = s.byteAt k :=
  Memory.lookup_store_ne s.mem a k x h

/-- `MemWrite` keeps the canonical form (20_memory.md R64). -/
theorem State.memWrite_wf {s t : State} {a : Nat} {x : Byte} (hs : s.mem.wf = true)
    (h : s.memWrite a x = .ok t) : t.mem.wf = true := by
  unfold State.memWrite at h
  split at h
  · next ha => cases h; exact Memory.wf_store hs ha x
  · cases h

end Sys2Proof.Machine
end

