-- ==== Sys2Proof/Laws/Ops.lean ====
section
/-! SUPPORT. For each shared operation, what it can do, said once: byte transfers, register writes,
the program counter's advance, the stack, the fetch, the skips and the flags. -/

namespace Sys2Proof.Machine

/-! ## Registers -/

/-- A register write changes that register and no other. -/
theorem State.reg_setReg (s : State) (x j : Nibble) (b : Byte) :
    (s.setReg x b).reg j = if j = x then b else s.reg j := by
  by_cases h : j = x
  · subst h; simp [State.reg, State.setReg]
  · have : x.toNat ≠ j.toNat := fun e => h (BitVec.eq_of_toNat_eq e.symm)
    simp [State.reg, State.setReg, Vector.getElem_set_ne, this, h]

/-- A flag write changes VF and no other register. -/
theorem State.reg_setFlag (s : State) (j : Nibble) (b : Byte) :
    (s.setFlag b).reg j = if j = 0xF#4 then b else s.reg j :=
  State.reg_setReg s flagReg j b

/-- A result and a flag: the flag is written last (41_alu.md R133). -/
theorem State.reg_setResultFlag (s : State) (x j : Nibble) (r f : Byte) :
    (s.setResultFlag x r f).reg j = if j = 0xF#4 then f else if j = x then r else s.reg j := by
  simp [State.setResultFlag, State.reg_setFlag, State.reg_setReg]

/-- Loading a list of bytes from register `k` on writes exactly those registers, and nothing else of
the state. -/
theorem State.setRegsFrom_spec (bs : List Byte) :
    ∀ (s : State) (k : Nat), ∃ w, s.setRegsFrom k bs = { s with v := w } ∧
      ∀ j (hj : j < 16), w[j] = if h : k ≤ j ∧ j - k < bs.length then bs[j - k]'h.2 else s.v[j] := by
  induction bs with
  | nil => intro s k; exact ⟨s.v, rfl, fun j hj => by simp⟩
  | cons b bs ih =>
    intro s k
    obtain ⟨w, hw, hr⟩ := ih { s with v := s.v.setIfInBounds k b } (k + 1)
    refine ⟨w, hw, fun j hj => ?_⟩
    rw [hr j hj]
    by_cases h1 : j = k
    · subst h1; simp
    · by_cases h2 : k + 1 ≤ j ∧ j - (k + 1) < bs.length
      · have h3 : k ≤ j ∧ j - k < (b :: bs).length := by simp; omega
        have h4 : j - k = j - (k + 1) + 1 := by omega
        rw [dif_pos h2, dif_pos h3]; simp only [h4, List.getElem_cons_succ]
      · have h3 : ¬ (k ≤ j ∧ j - k < (b :: bs).length) := by simp; omega
        have h4 : k ≠ j := fun e => h1 e.symm
        rw [dif_neg h2, dif_neg h3]
        exact Vector.getElem_setIfInBounds_ne hj h4

/-- The registers stored by `Fx55`, in order. -/
theorem State.regsThrough_length (s : State) (x : Nibble) :
    (s.regsThrough x).length = x.toNat + 1 := by
  have := x.isLt
  simp [State.regsThrough]; omega

theorem State.regsThrough_getElem (s : State) (x j : Nibble) (h : j.toNat < (s.regsThrough x).length) :
    (s.regsThrough x)[j.toNat] = s.reg j := by
  simp [State.regsThrough, State.reg]

/-! ## Byte transfers -/

/-- `readBytes` answers the bytes in order when they all lie in memory (or there are none), and faults
otherwise (20_memory.md R64). -/
theorem State.readBytes_spec (s : State) (n : Nat) :
    ∀ a, s.readBytes a n =
      if n = 0 ∨ a + n ≤ 4096 then .ok ((List.range n).map fun k => s.byteAt (a + k))
      else .error .memOutOfRange := by
  induction n with
  | zero => intro a; simp [State.readBytes]
  | succ n ih =>
    intro a
    rw [State.readBytes, State.memRead, ih (a + 1)]
    by_cases ha : a < memSize
    · have ha' : a < 4096 := ha
      by_cases hn : n = 0 ∨ a + 1 + n ≤ 4096
      · have hn' : n + 1 = 0 ∨ a + (n + 1) ≤ 4096 := by omega
        rw [if_pos ha, if_pos hn, if_pos hn', List.range_succ_eq_map]
        simp [Function.comp_def, Nat.add_comm, Nat.add_left_comm]
      · have hn' : ¬ (n + 1 = 0 ∨ a + (n + 1) ≤ 4096) := by omega
        rw [if_pos ha, if_neg hn, if_neg hn']
    · have ha' : ¬ a < 4096 := ha
      have hn' : ¬ (n + 1 = 0 ∨ a + (n + 1) ≤ 4096) := by omega
      rw [if_neg ha, if_neg hn']

/-- `writeBytes` writes all its bytes when they all lie in memory (or there are none): memory then
reads the bytes written where they were written, as before elsewhere, keeps its canonical form, and
nothing else of the state changes. Otherwise it faults (20_memory.md R64). -/
theorem State.writeBytes_spec (bs : List Byte) :
    ∀ (s : State) (a : Nat),
      (bs = [] ∨ a + bs.length ≤ 4096 →
        ∃ m, s.writeBytes a bs = .ok { s with mem := m } ∧
          (∀ k, Memory.lookup m k =
            if h : a ≤ k ∧ k - a < bs.length then bs[k - a]'h.2 else s.byteAt k) ∧
          (s.mem.wf = true → Memory.wf m = true)) ∧
      (¬ (bs = [] ∨ a + bs.length ≤ 4096) → s.writeBytes a bs = .error .memOutOfRange) := by
  induction bs with
  | nil => intro s a; exact ⟨fun _ => ⟨s.mem, rfl, fun k => by simp [State.byteAt], id⟩, by simp⟩
  | cons b bs ih =>
    intro s a
    obtain ⟨hok, herr⟩ := ih (s.setByte a b) (a + 1)
    constructor
    · intro h
      have hlen : a + (bs.length + 1) ≤ 4096 := by simpa using h
      have ha : a < memSize := by simp only [memSize]; omega
      obtain ⟨m, hm, hr, hw⟩ := hok (Or.inr (by omega))
      refine ⟨m, by simp only [State.writeBytes, State.memWrite, if_pos ha, hm]; rfl, fun k => ?_,
        fun hs => hw (Memory.wf_store hs ha b)⟩
      rw [hr k]
      by_cases h1 : k = a
      · subst h1
        simp [State.byteAt_setByte_self]
      · by_cases h2 : a + 1 ≤ k ∧ k - (a + 1) < bs.length
        · have h3 : a ≤ k ∧ k - a < (b :: bs).length := by simp; omega
          have h4 : k - a = k - (a + 1) + 1 := by omega
          rw [dif_pos h2, dif_pos h3]; simp only [h4, List.getElem_cons_succ]
        · have h3 : ¬ (a ≤ k ∧ k - a < (b :: bs).length) := by simp; omega
          rw [dif_neg h2, dif_neg h3, State.byteAt_setByte_ne s b h1]
    · intro h
      have hlen : ¬ a + (bs.length + 1) ≤ 4096 := by simpa using h
      by_cases ha : a < memSize
      · have ha' : a < 4096 := ha
        simp only [State.writeBytes, State.memWrite, if_pos ha]
        refine herr ?_
        rintro (h1 | h1)
        · subst h1; simp at hlen; omega
        · omega
      · simp only [State.writeBytes, State.memWrite, if_neg ha]

/-! ## The program counter -/

theorem pcPlus2_toNat (pc : Word) : (pcPlus2 pc).toNat = (pc.toNat + 2) % 4096 := by
  simp only [pcPlus2, memSize, BitVec.toNat_ofNat]
  omega

/-- A taken skip leaves `(pc_f + 4) mod 4096` (40_control_flow.md R114). -/
theorem pcPlus2_pcPlus2_toNat (pc : Word) : (pcPlus2 (pcPlus2 pc)).toNat = (pc.toNat + 4) % 4096 := by
  rw [pcPlus2_toNat, pcPlus2_toNat]; omega

/-! ## The stack -/

/-- What `push` can do (10_state.md R28). -/
theorem State.push_cases (s : State) (a : Word) :
    (s.params.stackDepth ≤ s.sp ∧ s.push a = .error .stackOverflow) ∨
      (s.sp < s.params.stackDepth ∧
        s.push a = .ok { s with stack := s.stack.set s.sp a, sp := s.sp + 1 }) := by
  by_cases h : s.params.stackDepth ≤ s.sp
  · exact .inl ⟨h, by simp [State.push, h]⟩
  · exact .inr ⟨by omega, by simp [State.push, h]⟩

/-- What `pop` can do (10_state.md R28). -/
theorem State.pop_cases (s : State) :
    (s.sp = 0 ∧ s.pop = .error .emptyStackReturn) ∨
      (0 < s.sp ∧ s.pop = .ok (s.stackEntry (s.sp - 1), { s with sp := s.sp - 1 })) := by
  by_cases h : s.sp = 0
  · exact .inl ⟨h, by simp [State.pop, h]⟩
  · exact .inr ⟨by omega, by simp [State.pop, h]⟩

/-! ## Flags -/

theorem flagByte_le_one (c : Bool) : (flagByte c).toNat ≤ 1 := by cases c <;> decide

theorem sumResult_toNat (a b : Byte) : (sumResult a b).toNat = (a.toNat + b.toNat) % 256 := by
  simp [sumResult]

theorem differenceResult_toNat (a b : Byte) :
    (differenceResult a b).toNat = (a.toNat + 256 - b.toNat) % 256 := by
  simp [differenceResult]

/-! ## Fault entry and the step -/

theorem settle_ok (s t : State) : settle s (.ok t) = t := rfl

theorem settle_error (s : State) (f : Fault) : settle s (.error f) = s.takeFault f := rfl

/-- The code of every fault is 1 to 5 (60_exceptions.md R210). -/
theorem Fault.code_range (f : Fault) : 1 ≤ f.code.toNat ∧ f.code.toNat ≤ 5 := by
  cases f <;> decide

/-- What the fetch can do (30_encoding.md R90, R91; above 4095, log entry 5). -/
theorem State.fetchWord_cases (s : State) :
    (s.pc.toNat = 4095 ∧ s.fetchWord = .error .fetchOutOfRange) ∨
      (s.pc.toNat < 4095 ∧
        s.fetchWord = .ok (wordOfBytes (s.byteAt s.pc.toNat) (s.byteAt (s.pc.toNat + 1)))) ∨
      (4095 < s.pc.toNat ∧ s.fetchWord = .error .memOutOfRange) := by
  rcases Nat.lt_trichotomy s.pc.toNat 4095 with h | h | h
  · refine .inr (.inl ⟨h, ?_⟩)
    have h1 : s.pc.toNat < memSize := by simp only [memSize]; omega
    have h2 : s.pc.toNat + 1 < memSize := by simp only [memSize]; omega
    simp [State.fetchWord, State.memRead, h1, h2, Nat.ne_of_lt h]
  · exact .inl ⟨h, by simp [State.fetchWord, h]⟩
  · refine .inr (.inr ⟨h, ?_⟩)
    have h1 : ¬ s.pc.toNat < memSize := by simp only [memSize]; omega
    simp [State.fetchWord, State.memRead, h1, Nat.ne_of_gt h]

/-- What a step can do, in the order of 60_exceptions.md R215: it is idle, the fetch faults, the word
is unrecognized, or the decoded instruction runs. -/
theorem step_cases (s : State) :
    (s.idle = true ∧ step s = .next s.consumeInput) ∨
      (s.idle = false ∧ ∃ f, s.fetchWord = .error f ∧ step s = .next (s.takeFault f).consumeInput) ∨
      (s.idle = false ∧ ∃ w e, s.fetchWord = .ok w ∧ decodeWord s.params.keyOps w = .error e ∧
        step s = .next s.noOp.consumeInput) ∨
      (s.idle = false ∧ ∃ w i, s.fetchWord = .ok w ∧ decodeWord s.params.keyOps w = .ok i ∧
        step s = consumeOutcome (exec i s)) := by
  cases hi : s.idle with
  | true => exact .inl ⟨rfl, by simp [step, hi]⟩
  | false =>
    refine .inr ?_
    cases hf : s.fetchWord with
    | error f => exact .inl ⟨rfl, f, rfl, by simp [step, hi, State.fetchInstr, hf]⟩
    | ok w =>
      refine .inr ?_
      cases hd : decodeWord s.params.keyOps w with
      | error e => exact .inl ⟨rfl, w, e, rfl, hd, by simp [step, hi, State.fetchInstr, hf, hd]⟩
      | ok i => exact .inr ⟨rfl, w, i, rfl, hd, by simp [step, hi, State.fetchInstr, hf, hd]⟩

end Sys2Proof.Machine
end

