-- ==== Sys2Proof/Laws/PerInstr.lean ====
section
/-! SUPPORT. A law of each instruction as syntax: its encoding is selected by its row of the opcode
map, and has no ignored bit set (30_encoding.md R100, R104). -/

namespace Sys2Proof.Laws.Row

/-- The opcode map's row of an instruction selects the word it encodes to, whose ignored bits are 0. -/
def Statement (i : Instr) : Prop :=
  (opcodeRow i).selects (encode i) = true ∧ encode i &&& ignoredBits i = 0#16

/-- Selection by a row whose pattern is the format's word under the row's mask. -/
theorem selects_of_eq {r : OpcodeRow} {w p : Word} (h : w &&& r.mask = p) (hp : p = r.pattern) :
    r.selects w = true := by
  simp [OpcodeRow.selects, h, hp]

/-- Nothing is ignored of a word whose ignored bits are none. -/
theorem ignores_nothing (w : Word) : w &&& 0#16 = 0#16 := BitVec.and_zero

theorem cls : Statement .cls := ⟨by decide, by decide⟩

theorem ret : Statement .ret := ⟨by decide, by decide⟩

theorem jp (nnn : Addr) : Statement (.jp nnn) :=
  ⟨selects_of_eq (formatA_maskF000 _ _) rfl, ignores_nothing _⟩

theorem call (nnn : Addr) : Statement (.call nnn) :=
  ⟨selects_of_eq (formatA_maskF000 _ _) rfl, ignores_nothing _⟩

theorem seImm (x : Nibble) (nn : Byte) : Statement (.seImm x nn) :=
  ⟨selects_of_eq (formatXK_maskF000 _ _ _) rfl, ignores_nothing _⟩

theorem sneImm (x : Nibble) (nn : Byte) : Statement (.sneImm x nn) :=
  ⟨selects_of_eq (formatXK_maskF000 _ _ _) rfl, ignores_nothing _⟩

theorem seReg (x y : Nibble) : Statement (.seReg x y) :=
  ⟨selects_of_eq (formatXYN_maskF000 _ _ _ _) rfl, (formatXYN_mask000F _ _ _ _).trans (by decide)⟩

theorem ldImm (x : Nibble) (nn : Byte) : Statement (.ldImm x nn) :=
  ⟨selects_of_eq (formatXK_maskF000 _ _ _) rfl, ignores_nothing _⟩

theorem addImm (x : Nibble) (nn : Byte) : Statement (.addImm x nn) :=
  ⟨selects_of_eq (formatXK_maskF000 _ _ _) rfl, ignores_nothing _⟩

theorem ldReg (x y : Nibble) : Statement (.ldReg x y) :=
  ⟨selects_of_eq (formatXYN_maskF00F _ _ _ _) rfl, ignores_nothing _⟩

theorem orReg (x y : Nibble) : Statement (.orReg x y) :=
  ⟨selects_of_eq (formatXYN_maskF00F _ _ _ _) rfl, ignores_nothing _⟩

theorem andReg (x y : Nibble) : Statement (.andReg x y) :=
  ⟨selects_of_eq (formatXYN_maskF00F _ _ _ _) rfl, ignores_nothing _⟩

theorem xorReg (x y : Nibble) : Statement (.xorReg x y) :=
  ⟨selects_of_eq (formatXYN_maskF00F _ _ _ _) rfl, ignores_nothing _⟩

theorem addReg (x y : Nibble) : Statement (.addReg x y) :=
  ⟨selects_of_eq (formatXYN_maskF00F _ _ _ _) rfl, ignores_nothing _⟩

theorem subReg (x y : Nibble) : Statement (.subReg x y) :=
  ⟨selects_of_eq (formatXYN_maskF00F _ _ _ _) rfl, ignores_nothing _⟩

theorem shrReg (x y : Nibble) : Statement (.shrReg x y) :=
  ⟨selects_of_eq (formatXYN_maskF00F _ _ _ _) rfl, ignores_nothing _⟩

theorem subnReg (x y : Nibble) : Statement (.subnReg x y) :=
  ⟨selects_of_eq (formatXYN_maskF00F _ _ _ _) rfl, ignores_nothing _⟩

theorem shlReg (x y : Nibble) : Statement (.shlReg x y) :=
  ⟨selects_of_eq (formatXYN_maskF00F _ _ _ _) rfl, ignores_nothing _⟩

theorem sneReg (x y : Nibble) : Statement (.sneReg x y) :=
  ⟨selects_of_eq (formatXYN_maskF000 _ _ _ _) rfl, (formatXYN_mask000F _ _ _ _).trans (by decide)⟩

theorem ldI (nnn : Addr) : Statement (.ldI nnn) :=
  ⟨selects_of_eq (formatA_maskF000 _ _) rfl, ignores_nothing _⟩

theorem jpV0 (nnn : Addr) : Statement (.jpV0 nnn) :=
  ⟨selects_of_eq (formatA_maskF000 _ _) rfl, ignores_nothing _⟩

theorem rnd (x : Nibble) (nn : Byte) : Statement (.rnd x nn) :=
  ⟨selects_of_eq (formatXK_maskF000 _ _ _) rfl, ignores_nothing _⟩

theorem drw (x y n : Nibble) : Statement (.drw x y n) :=
  ⟨selects_of_eq (formatXYN_maskF000 _ _ _ _) rfl, ignores_nothing _⟩

theorem skp (x : Nibble) : Statement (.skp x) :=
  ⟨selects_of_eq (formatXK_maskF0FF _ _ _) rfl, ignores_nothing _⟩

theorem sknp (x : Nibble) : Statement (.sknp x) :=
  ⟨selects_of_eq (formatXK_maskF0FF _ _ _) rfl, ignores_nothing _⟩

theorem ldKey (x : Nibble) : Statement (.ldKey x) :=
  ⟨selects_of_eq (formatXK_maskF0FF _ _ _) rfl, ignores_nothing _⟩

theorem addI (x : Nibble) : Statement (.addI x) :=
  ⟨selects_of_eq (formatXK_maskF0FF _ _ _) rfl, ignores_nothing _⟩

theorem ldBcd (x : Nibble) : Statement (.ldBcd x) :=
  ⟨selects_of_eq (formatXK_maskF0FF _ _ _) rfl, ignores_nothing _⟩

theorem storeRegs (x : Nibble) : Statement (.storeRegs x) :=
  ⟨selects_of_eq (formatXK_maskF0FF _ _ _) rfl, ignores_nothing _⟩

theorem loadRegs (x : Nibble) : Statement (.loadRegs x) :=
  ⟨selects_of_eq (formatXK_maskF0FF _ _ _) rfl, ignores_nothing _⟩

end Sys2Proof.Laws.Row
end

