-- ==== Sys2Proof/Tests/Slice0.lean ====
section
/-! SUPPORT. Tests: decodings of words written out bit by bit from 30_encoding.md R83 and R100, one
step of each instruction with the expected results of 95_test_vectors.md (the vector's name stands in
each comment), and for each obligation with hypotheses a state and operands that meet them. -/

namespace Sys2Proof.Tests

open Sys2Proof Sys2Proof.Machine

/-! ## WellFormed -/

/-- With `KEY_OPS` false each of the three key instructions is ill-formed; no other check exists. -/
theorem test_wellFormed_refuses_key_ops :
    (Instr.skp 1#4).wellFormed false = false ∧ (Instr.sknp 1#4).wellFormed false = false ∧
      (Instr.ldKey 1#4).wellFormed false = false := by decide

theorem test_wellFormed_accepts :
    (Instr.skp 1#4).wellFormed true = true ∧ (Instr.addI 1#4).wellFormed false = true := by decide

/-! ## Decoding, bit by bit (R83: family, then the format's fields) -/

theorem test_decode_cls : decodeWord true 0b0000000011100000#16 = .ok .cls := by decide
theorem test_decode_ret : decodeWord true 0b0000010111101110#16 = .ok .ret := by decide
theorem test_decode_jp : decodeWord true 0b0001001000001000#16 = .ok (.jp 0x208#12) := by decide
theorem test_decode_call : decodeWord true 0b0010001100000000#16 = .ok (.call 0x300#12) := by decide
theorem test_decode_seImm : decodeWord true 0b0011001100010000#16 = .ok (.seImm 3#4 0x10#8) := by decide
theorem test_decode_sneImm : decodeWord true 0b0100001100010000#16 = .ok (.sneImm 3#4 0x10#8) := by
  decide
theorem test_decode_seReg : decodeWord true 0b0101000100100001#16 = .ok (.seReg 1#4 2#4) := by decide
theorem test_decode_ldImm : decodeWord true 0b0110101011111111#16 = .ok (.ldImm 0xA#4 0xFF#8) := by
  decide
theorem test_decode_addImm : decodeWord true 0b0111010100000010#16 = .ok (.addImm 5#4 2#8) := by decide
theorem test_decode_ldReg : decodeWord true 0b1000000100100000#16 = .ok (.ldReg 1#4 2#4) := by decide
theorem test_decode_orReg : decodeWord true 0b1000000100100001#16 = .ok (.orReg 1#4 2#4) := by decide
theorem test_decode_andReg : decodeWord true 0b1000000100100010#16 = .ok (.andReg 1#4 2#4) := by decide
theorem test_decode_xorReg : decodeWord true 0b1000000100100011#16 = .ok (.xorReg 1#4 2#4) := by decide
theorem test_decode_addReg : decodeWord true 0b1000000100100100#16 = .ok (.addReg 1#4 2#4) := by decide
theorem test_decode_subReg : decodeWord true 0b1000000100100101#16 = .ok (.subReg 1#4 2#4) := by decide
theorem test_decode_shrReg : decodeWord true 0b1000000100100110#16 = .ok (.shrReg 1#4 2#4) := by decide
theorem test_decode_subnReg : decodeWord true 0b1000000100100111#16 = .ok (.subnReg 1#4 2#4) := by
  decide
theorem test_decode_shlReg : decodeWord true 0b1000000100101110#16 = .ok (.shlReg 1#4 2#4) := by decide
theorem test_decode_sneReg : decodeWord true 0b1001000100100111#16 = .ok (.sneReg 1#4 2#4) := by decide
theorem test_decode_ldI : decodeWord true 0b1010001000000010#16 = .ok (.ldI 0x202#12) := by decide
theorem test_decode_jpV0 : decodeWord true 0b1011111110000000#16 = .ok (.jpV0 0xF80#12) := by decide
theorem test_decode_rnd : decodeWord true 0b1100001100001111#16 = .ok (.rnd 3#4 0x0F#8) := by decide
theorem test_decode_drw : decodeWord true 0b1101000000010011#16 = .ok (.drw 0#4 1#4 3#4) := by decide
theorem test_decode_skp : decodeWord true 0b1110000110011110#16 = .ok (.skp 1#4) := by decide
theorem test_decode_sknp : decodeWord true 0b1110000110100001#16 = .ok (.sknp 1#4) := by decide
theorem test_decode_ldKey : decodeWord true 0b1111001100001010#16 = .ok (.ldKey 3#4) := by decide
theorem test_decode_addI : decodeWord true 0b1111001000011110#16 = .ok (.addI 2#4) := by decide
theorem test_decode_ldBcd : decodeWord true 0b1111010100110011#16 = .ok (.ldBcd 5#4) := by decide
theorem test_decode_storeRegs : decodeWord true 0b1111001001010101#16 = .ok (.storeRegs 2#4) := by decide
theorem test_decode_loadRegs : decodeWord true 0b1111001001100101#16 = .ok (.loadRegs 2#4) := by decide

/-- VS9, VS10, VS11: unrecognized words, each refused by its family's name. -/
theorem test_decode_unrecognized :
    decodeWord true 0x0123#16 = .error (.unassigned0 0x0123#16) ∧
      decodeWord true 0xF0FF#16 = .error (.unassignedF 0xF0FF#16) ∧
      decodeWord true 0xE000#16 = .error (.unassignedE 0xE000#16) ∧
      decodeWord true 0x800F#16 = .error (.unassigned8 0x800F#16) ∧
      decodeWord true 0xF007#16 = .error (.unassignedF 0xF007#16) ∧
      decodeWord false 0xE19E#16 = .error (.unassignedE 0xE19E#16) ∧
      decodeWord false 0xE1A1#16 = .error (.unassignedE 0xE1A1#16) ∧
      decodeWord false 0xF10A#16 = .error (.unassignedF 0xF10A#16) := by decide

/-- A lone byte is no instruction; the bytes after an instruction are handed on. -/
theorem test_decodeBytes :
    decodeBytes true [0x12#8] = .error .truncated ∧
      decodeBytes true [0x12#8, 0x08#8, 0x60#8] = .ok (.jp 0x208#12, [0x60#8]) := by decide

theorem test_decodeTableWord :
    decodeTableWord 16 0x8124 = some (.addReg 1#4 2#4) ∧ decodeTableWord 16 0x0123 = none := by decide

/-! ## One step of each instruction -/

/-- After reset, with a random byte and a key for the next step. -/
def fresh (rnd : Byte) (key : Option Nibble) : State := State.reset.withInput ⟨rnd, key⟩

/-- After reset, with `rnd = 0` and no key: the start of every vector. -/
def start : State := fresh 0#8 none

/-- `start` with `V[1]` and `V[2]` set. -/
def regs12 (a b : Byte) : State := (start.setReg 1#4 a).setReg 2#4 b

/-- The state after one step that fetches a word at `pc`. -/
def after (s : State) (w : Nat) : State := (s.withFetchWord 16 w).afterStep

/-- The state with a byte at 0x300 and `I` there. -/
def sprite (s : State) (b : Byte) : State := (s.setByte 0x300 b).setIndex 0x300#16

/-- VC2 (a return address of the stack's second entry). -/
theorem test_ret : (after { start with pc := 0x400#16, sp := 2, stack := [0x204#16, 0x30A#16] } 0x00EE).pc
    = 0x30A#16 := by decide
/-- VC1. -/
theorem test_ret_empty : (after start 0x00EE).faultCode = 1#3 ∧ (after start 0x00EE).pc = 0x200#16 := by
  decide
/-- VC4. -/
theorem test_jp_self : (after start 0x1200).halted = true ∧ (after start 0x1200).pc = 0x200#16 := by decide
/-- VC5. -/
theorem test_jp_self_param :
    (after { start with params := ⟨16, false, true⟩ } 0x1200).halted = false := by decide
/-- VC9. -/
theorem test_call_at_top : (after (start.setPc 0xFFE#16) 0x2300).stackEntry 0 = 0#16 ∧
    (after (start.setPc 0xFFE#16) 0x2300).sp = 1 ∧
    (after (start.setPc 0xFFE#16) 0x2300).pc = 0x300#16 := by decide
/-- VC10. -/
theorem test_call_full : (after { start with sp := 16 } 0x2300).faultCode = 2#3 ∧
    (after { start with sp := 16 } 0x2300).sp = 16 := by decide
/-- VC12. -/
theorem test_seImm : (after (start.setReg 3#4 0x10#8) 0x3310).pc = 0x204#16 := by decide
/-- VC21: the skipped word at 0xFFF is passed over. -/
theorem test_seImm_wraps : (after (start.setPc 0xFFD#16) 0x3000).pc = 1#16 := by decide
/-- VC14, VC15. -/
theorem test_sneImm : (after (start.setReg 3#4 0x10#8) 0x4310).pc = 0x202#16 ∧
    (after (start.setReg 3#4 0x11#8) 0x4310).pc = 0x204#16 := by decide
/-- VC16. -/
theorem test_seReg : (after (regs12 7#8 7#8) 0x5121).pc = 0x204#16 := by decide
/-- VC18, VC19. -/
theorem test_sneReg : (after (regs12 7#8 8#8) 0x9120).pc = 0x204#16 ∧
    (after (regs12 9#8 0#8) 0x9110).pc = 0x202#16 := by decide
/-- VC23. -/
theorem test_jpV0 : (after (start.setReg 0#4 4#8) 0xB300).pc = 0x304#16 := by decide
/-- VC25. -/
theorem test_jpV0_fault : (after (start.setReg 0#4 0xFF#8) 0xBF80).faultCode = 4#3 ∧
    (after (start.setReg 0#4 0xFF#8) 0xBF80).pc = 0x200#16 := by decide
/-- VA1. -/
theorem test_ldImm : (after start 0x6AFF).reg 0xA#4 = 0xFF#8 := by decide
/-- VA2. -/
theorem test_addImm : (after ((start.setReg 5#4 0xFF#8).setReg 0xF#4 0x55#8) 0x7502).reg 5#4 = 1#8 ∧
    (after ((start.setReg 5#4 0xFF#8).setReg 0xF#4 0x55#8) 0x7502).reg 0xF#4 = 0x55#8 := by decide
/-- VA4. -/
theorem test_ldReg : (after (regs12 0#8 0x42#8) 0x8120).reg 1#4 = 0x42#8 := by decide
/-- VA5. -/
theorem test_orReg : (after ((regs12 0xF0#8 0x0C#8).setReg 0xF#4 0x77#8) 0x8121).reg 1#4 = 0xFC#8 ∧
    (after ((regs12 0xF0#8 0x0C#8).setReg 0xF#4 0x77#8) 0x8121).reg 0xF#4 = 0x77#8 := by decide
/-- VA6. -/
theorem test_andReg : (after (regs12 0xF0#8 0x3C#8) 0x8122).reg 1#4 = 0x30#8 := by decide
/-- VA7. -/
theorem test_xorReg : (after (regs12 0xF0#8 0x3C#8) 0x8123).reg 1#4 = 0xCC#8 := by decide
/-- VA10: the sum is exactly 256. -/
theorem test_addReg : (after (regs12 0x80#8 0x80#8) 0x8124).reg 1#4 = 0#8 ∧
    (after (regs12 0x80#8 0x80#8) 0x8124).reg 0xF#4 = 1#8 := by decide
/-- VA13, VA14: VF as destination and as operand. -/
theorem test_addReg_flag : (after ((regs12 1#8 0#8).setReg 0xF#4 0xFF#8) 0x8F14).reg 0xF#4 = 1#8 ∧
    (after ((regs12 0x10#8 0#8).setReg 0xF#4 5#8) 0x81F4).reg 1#4 = 0x15#8 := by decide
/-- VA16. -/
theorem test_subReg : (after (regs12 3#8 5#8) 0x8125).reg 1#4 = 0xFE#8 ∧
    (after (regs12 3#8 5#8) 0x8125).reg 0xF#4 = 0#8 := by decide
/-- VA17: equality is no borrow. -/
theorem test_subReg_equal : (after (regs12 7#8 7#8) 0x8125).reg 1#4 = 0#8 ∧
    (after (regs12 7#8 7#8) 0x8125).reg 0xF#4 = 1#8 := by decide
/-- VA21: the source is `V[y]`. -/
theorem test_shrReg : (after (regs12 0x99#8 5#8) 0x8126).reg 1#4 = 2#8 ∧
    (after (regs12 0x99#8 5#8) 0x8126).reg 0xF#4 = 1#8 := by decide
/-- VA24: `x = 0xF`. -/
theorem test_shrReg_flag : (after (regs12 0#8 4#8) 0x8F26).reg 0xF#4 = 0#8 := by decide
/-- VA25. -/
theorem test_subnReg : (after (regs12 3#8 5#8) 0x8127).reg 1#4 = 2#8 ∧
    (after (regs12 3#8 5#8) 0x8127).reg 0xF#4 = 1#8 := by decide
/-- VA26. -/
theorem test_subnReg_borrow : (after (regs12 5#8 3#8) 0x8127).reg 1#4 = 0xFE#8 ∧
    (after (regs12 5#8 3#8) 0x8127).reg 0xF#4 = 0#8 := by decide
/-- VA28. -/
theorem test_shlReg : (after (regs12 0#8 0x81#8) 0x812E).reg 1#4 = 2#8 ∧
    (after (regs12 0#8 0x81#8) 0x812E).reg 0xF#4 = 1#8 := by decide
/-- The example of 41_alu.md R145. -/
theorem test_rnd : (after (fresh 0xA7#8 none) 0xC30F).reg 3#4 = 7#8 := by decide
/-- The example of 42_index_memory.md R160. -/
theorem test_ldI : (after start 0xA202).i = 0x202#16 := by decide
/-- VM4: modulo 65536, VF unchanged. -/
theorem test_addI : (after ((start.setIndex 0xFFFF#16).setReg 2#4 1#8) 0xF21E).i = 0#16 ∧
    (after ((start.setIndex 0xFFFF#16).setReg 2#4 1#8) 0xF21E).reg 0xF#4 = 0#8 := by decide
/-- VM5. -/
theorem test_ldBcd : [0x300, 0x301, 0x302].map
    (after ((start.setReg 5#4 234#8).setIndex 0x300#16) 0xF533).byteAt = [2#8, 3#8, 4#8] := by decide
/-- VM10. -/
theorem test_ldBcd_fault : (after ((start.setReg 5#4 9#8).setIndex 0xFFE#16) 0xF533).faultCode = 3#3 ∧
    (after ((start.setReg 5#4 9#8).setIndex 0xFFE#16) 0xF533).byteAt 0xFFE = 0#8 := by decide
/-- VM11. -/
theorem test_storeRegs : [0x400, 0x401, 0x402, 0x403].map
    (after ((((regs12 2#8 3#8).setReg 0#4 1#8).setReg 3#4 4#8).setIndex 0x400#16) 0xF255).byteAt =
      [1#8, 2#8, 3#8, 0#8] := by decide
/-- VM14. -/
theorem test_storeRegs_fault :
    (after ((start.setReg 0#4 1#8).setIndex 0xFF1#16) 0xFF55).faultCode = 3#3 ∧
      (after ((start.setReg 0#4 1#8).setIndex 0xFF1#16) 0xFF55).byteAt 0xFF1 = 0#8 := by decide
/-- VM15. -/
theorem test_loadRegs : [0#4, 1#4, 2#4, 3#4].map
    (after ((((start.setByte 0x400 1#8).setByte 0x401 2#8).setByte 0x402 3#8).setReg 3#4 0x77#8
      |>.setIndex 0x400#16) 0xF265).reg = [1#8, 2#8, 3#8, 0x77#8] := by decide
/-- VM17. -/
theorem test_loadRegs_fault :
    (after ((start.setReg 0#4 0x11#8).setIndex 0xFFC#16) 0xF565).faultCode = 3#3 ∧
      (after ((start.setReg 0#4 0x11#8).setIndex 0xFFC#16) 0xF565).reg 0#4 = 0x11#8 := by decide
/-- VD1. -/
theorem test_cls :
    (after { start.setReg 0xF#4 0x33#8 with disp := Vector.replicate 32 0xFF#64 } 0x00E0).disp =
        Vector.replicate 32 0#64 ∧
      (after { start.setReg 0xF#4 0x33#8 with disp := Vector.replicate 32 0xFF#64 } 0x00E0).reg 0xF#4 =
        0x33#8 := by decide
/-- VD4: columns 60 to 63 and 0 to 3 of row 0. -/
theorem test_drw_wraps : (after ((sprite start 0xFF#8).setReg 0#4 60#8) 0xD011).disp =
    (Vector.replicate 32 0#64).set 0 0xF00000000000000F#64 := by decide
/-- VD11: (0, 0) goes dark, (0, 1) becomes lit, VF = 1. -/
theorem test_drw_collides :
    (after (sprite { start with disp := Display.dark.toggle 0 0 } 0xC0#8) 0xD011).disp =
        Display.dark.toggle 0 1 ∧
      (after (sprite { start with disp := Display.dark.toggle 0 0 } 0xC0#8) 0xD011).reg 0xF#4 = 1#8 := by
  decide
/-- VK1, VK4. -/
theorem test_skp : (after ((fresh 0#8 (some 5#4)).setReg 1#4 5#8) 0xE19E).pc = 0x204#16 ∧
    (after ((fresh 0#8 (some 5#4)).setReg 1#4 0x15#8) 0xE19E).pc = 0x202#16 := by decide
/-- VK5, VK6. -/
theorem test_sknp : (after (start.setReg 1#4 5#8) 0xE1A1).pc = 0x204#16 ∧
    (after ((fresh 0#8 (some 5#4)).setReg 1#4 5#8) 0xE1A1).pc = 0x202#16 := by decide
/-- VK10: the wrap to 0 is undone. -/
theorem test_ldKey_waits : (after (start.setPc 0xFFE#16) 0xF30A).pc = 0xFFE#16 ∧
    (after (start.setPc 0xFFE#16) 0xF30A).waitingForInput = true := by decide
/-- VK9. -/
theorem test_ldKey_takes :
    (after { fresh 0#8 (some 0xB#4) with waitingForInput := true, pc := 0x210#16 } 0xF30A).reg 3#4 =
        0x0B#8 ∧
      (after { fresh 0#8 (some 0xB#4) with waitingForInput := true, pc := 0x210#16 } 0xF30A).pc =
        0x212#16 := by decide

/-- VS3: the advance wraps, with its event. -/
theorem test_step_wraps : (after (start.setPc 0xFFE#16) 0x6105).pc = 0#16 ∧
    stepEvents ((start.setPc 0xFFE#16).withFetchWord 16 0x6105) =
      [.pcWrap 0xFFE#16, .trace 0xFFE#16 0x6105#16] := by decide
/-- VS4. -/
theorem test_fetch_fault : (start.setPc 0xFFF#16).afterStep.faultCode = 5#3 ∧
    (start.setPc 0xFFF#16).afterStep.faultPc = 0xFFF#16 ∧
    stepStatus (start.setPc 0xFFF#16) = .fault := by decide
/-- VX3: LOAD after a fault keeps `V[4]`. -/
theorem test_load :
    (load [0x12#8, 0x00#8] { start.setReg 4#4 0x44#8 with faultCode := 1#3, faultPc := 0xFFE#16 }).2 =
      ((start.setReg 4#4 0x44#8).setByte 512 0x12#8).setPc 0x200#16 := by decide

/-! ## Witnesses: states and operands that meet the hypotheses of each obligation -/

/-- The masks and matches of the opcode map, met by words whose operand and ignored bits are set
(`RowDecodes` and `KeyRowDecodes` of every instruction's obligation). -/
theorem test_witness_rows_control :
    0x05EE#16 &&& 0xF0FF#16 = 0x00EE#16 ∧ 0x1FFF#16 &&& 0xF000#16 = 0x1000#16 ∧
      0x2FFF#16 &&& 0xF000#16 = 0x2000#16 ∧ 0x3FFF#16 &&& 0xF000#16 = 0x3000#16 ∧
      0x4FFF#16 &&& 0xF000#16 = 0x4000#16 ∧ 0x5FFF#16 &&& 0xF000#16 = 0x5000#16 ∧
      0x9FFF#16 &&& 0xF000#16 = 0x9000#16 ∧ 0xBFFF#16 &&& 0xF000#16 = 0xB000#16 := by decide

theorem test_witness_rows_alu :
    0x6FFF#16 &&& 0xF000#16 = 0x6000#16 ∧ 0x7FFF#16 &&& 0xF000#16 = 0x7000#16 ∧
      0x8FF0#16 &&& 0xF00F#16 = 0x8000#16 ∧ 0x8FF1#16 &&& 0xF00F#16 = 0x8001#16 ∧
      0x8FF2#16 &&& 0xF00F#16 = 0x8002#16 ∧ 0x8FF3#16 &&& 0xF00F#16 = 0x8003#16 ∧
      0x8FF4#16 &&& 0xF00F#16 = 0x8004#16 ∧ 0x8FF5#16 &&& 0xF00F#16 = 0x8005#16 ∧
      0x8FF6#16 &&& 0xF00F#16 = 0x8006#16 ∧ 0x8FF7#16 &&& 0xF00F#16 = 0x8007#16 ∧
      0x8FFE#16 &&& 0xF00F#16 = 0x800E#16 ∧ 0xCFFF#16 &&& 0xF000#16 = 0xC000#16 := by decide

theorem test_witness_rows_memory_display_key :
    0xAFFF#16 &&& 0xF000#16 = 0xA000#16 ∧ 0xFF1E#16 &&& 0xF0FF#16 = 0xF01E#16 ∧
      0xFF33#16 &&& 0xF0FF#16 = 0xF033#16 ∧ 0xFF55#16 &&& 0xF0FF#16 = 0xF055#16 ∧
      0xFF65#16 &&& 0xF0FF#16 = 0xF065#16 ∧ 0x0FE0#16 &&& 0xF0FF#16 = 0x00E0#16 ∧
      0xDFFF#16 &&& 0xF000#16 = 0xD000#16 ∧ 0xEF9E#16 &&& 0xF0FF#16 = 0xE09E#16 ∧
      0xEFA1#16 &&& 0xF0FF#16 = 0xE0A1#16 ∧ 0xFF0A#16 &&& 0xF0FF#16 = 0xF00A#16 := by decide

/-- A state whose stack is full of return addresses 4095. -/
def fullStack : State := { start with sp := 16, stack := List.replicate 16 0xFFF#16 }

theorem inv_fullStack : Inv fullStack :=
  ⟨rfl, by decide, rfl, by decide, fun a h => by rw [(List.mem_replicate.mp h).2]; decide, by decide,
    by decide, fun _ => rfl, fun h => absurd rfl h, fun _ => rfl, fun _ => rfl, fun _ => rfl⟩

theorem inv_start : Inv start :=
  ⟨rfl, by decide, rfl, by decide, fun a h => by rw [(List.mem_replicate.mp h).2]; decide, by decide,
    by decide, fun _ => rfl, fun h => absurd rfl h, fun _ => rfl, fun _ => rfl, fun _ => rfl⟩

/-- `0 < sp` (a full stack, an entry 4095, in a state that meets the invariant) and `sp = 0`. -/
theorem test_witness_RetPopsReturnAddress :
    (0 < fullStack.sp ∧ Inv fullStack) ∧ start.sp = 0 := ⟨⟨by decide, inv_fullStack⟩, by decide⟩

/-- A self-jump that halts, one that does not, and a jump elsewhere. -/
theorem test_witness_JpJumpsAndHaltsOnItself :
    (start.params.selfJumpHalt = true ∧ (0x200#12).toNat = start.pc.toNat) ∧
      ¬ ((⟨16, false, true⟩ : Params).selfJumpHalt = true ∧ (0x200#12).toNat = start.pc.toNat) ∧
      ¬ (start.params.selfJumpHalt = true ∧ (0x201#12).toNat = start.pc.toNat) := by decide

/-- The last free entry, the untouched entries, and a full stack. -/
theorem test_witness_CallPushesReturnAddress :
    (({ start with sp := 15 } : State).sp < start.params.stackDepth ∧
      ({ start with sp := 15 } : State).sp < start.stack.length) ∧ 14 ≠ 15 ∧
      fullStack.sp = fullStack.params.stackDepth := by decide

theorem test_witness_ImmediateSkips : start.reg 3#4 = 0#8 ∧ start.reg 3#4 ≠ 1#8 := by decide

theorem test_witness_RegisterSkips :
    start.reg 1#4 = start.reg 2#4 ∧ (regs12 7#8 8#8).reg 1#4 ≠ (regs12 7#8 8#8).reg 2#4 := by decide

/-- The targets 4095 and 4096. -/
theorem test_witness_JpV0JumpsOrFaults :
    (0xF00#12).toNat + ((start.setReg 0#4 0xFF#8).reg 0#4).toNat ≤ 4095 ∧
      4095 < (0xF01#12).toNat + ((start.setReg 0#4 0xFF#8).reg 0#4).toNat := by decide

/-- `x ≠ 0xF`, and a register outside the written ones, for ADD, SUB, SHR, SUBN and SHL. -/
theorem test_witness_flag_results :
    (0xE#4 : Nibble) ≠ 0xF#4 ∧ ¬ ((1#4 : Nibble) = 2#4 ∨ (1#4 : Nibble) = 0xF#4) := by decide

/-- A bit number below 8, and a register other than the destination, for LD, ADD, OR, AND, XOR, RND. -/
theorem test_witness_LogicOpsBitwise : 7 < 8 ∧ (1#4 : Nibble) ≠ 2#4 := by decide

/-- The last byte at 4095 and at 4096, and an address outside the three. -/
theorem test_witness_LdBcdStoresDigits :
    (start.setIndex 0xFFD#16).base + 2 ≤ 4095 ∧ 4095 < (start.setIndex 0xFFE#16).base + 2 ∧
      ¬ ((start.setIndex 0xFFD#16).base ≤ 0xFFC ∧ 0xFFC ≤ (start.setIndex 0xFFD#16).base + 2) := by decide

/-- The last of 16 bytes at 4095 and at 4096; the one byte of `x = 0` at 4095. -/
theorem test_witness_StoreRegsStores :
    (start.setIndex 0xFF0#16).base + (0xF#4).toNat ≤ 4095 ∧
      4095 < (start.setIndex 0xFF1#16).base + (0xF#4).toNat ∧
      (start.setIndex 0xFFF#16).base + (0#4).toNat ≤ 4095 ∧ (0xF#4).toNat ≤ (0xF#4).toNat := by decide

theorem test_witness_LoadRegsLoads :
    (start.setIndex 0xFF0#16).base + (0xF#4).toNat ≤ 4095 ∧
      4095 < (start.setIndex 0x1000#16).base + (0#4).toNat ∧ ¬ (3#4).toNat ≤ (2#4).toNat := by decide

theorem test_witness_ClsClearsDisplay : 31 < 32 ∧ 63 < 64 := by decide

/-- The sprite of VD4, and a display lit where one of its wrapped columns lands. -/
def spriteState : State := { (sprite start 0xFF#8).setReg 0#4 60#8 with disp := Display.dark.toggle 0 3 }

theorem spriteState_hits : SpriteHits spriteState 1 60 0 0 3 := ⟨0, 7, by decide⟩

theorem spriteState_misses (p q : Nat) (h : p ≠ 0) : ¬ SpriteHits spriteState 1 60 0 p q := by
  rintro ⟨r, c, hr, -, hp, -⟩
  have : r = 0 := by omega
  subst this
  exact h hp

/-- `n = 0` with `I` outside memory; the last sprite byte at 4095 and at 4096; a pixel that is hit, one
that is not; a collision, and a draw without one. -/
theorem test_witness_DrwTogglesSpritePixels :
    (0#4 = 0#4 ∨ (start.setIndex 0xFFFF#16).base + (0#4).toNat ≤ 4096) ∧
      (start.setIndex 0xFFE#16).base + (2#4).toNat ≤ 4096 ∧
      ((3#4 : Nibble) ≠ 0#4 ∧ 4096 < (start.setIndex 0xFFE#16).base + (3#4).toNat) ∧
      SpriteHits spriteState 1 60 0 0 3 ∧ ¬ SpriteHits spriteState 1 60 0 1 3 ∧
      (∃ row col, row < 32 ∧ col < 64 ∧ spriteState.pixel row col = true ∧
        SpriteHits spriteState 1 60 0 row col) ∧
      (∀ row col, row < 32 → col < 64 → start.pixel row col = true →
        ¬ SpriteHits start 0 60 0 row col) :=
  ⟨by decide, by decide, by decide, spriteState_hits, spriteState_misses 1 3 (by decide),
    ⟨0, 3, by decide, by decide, by decide, spriteState_hits⟩,
    fun _ _ _ _ _ ⟨_, _, h, _⟩ => absurd h (Nat.not_lt_zero _)⟩

theorem test_witness_DrawTwiceRestoresDisplay :
    ∃ t u, (0#4 : Nibble) ≠ 0xF#4 ∧ (1#4 : Nibble) ≠ 0xF#4 ∧ spriteState.base + (1#4).toNat ≤ 4096 ∧
      exec (.drw 0#4 1#4 1#4) spriteState = .next t ∧ exec (.drw 0#4 1#4 1#4) t = .next u :=
  ⟨_, _, by decide, by decide, by decide, rfl, rfl⟩

/-- A key that matches; no key; another key; a register above 15. -/
theorem test_witness_KeySkips :
    (∃ k, ((fresh 0#8 (some 5#4)).setReg 1#4 5#8).key = some k ∧
      k.toNat = (((fresh 0#8 (some 5#4)).setReg 1#4 5#8).reg 1#4).toNat) ∧
    (∀ k, start.key = some k → k.toNat ≠ (start.reg 1#4).toNat) ∧
    (∀ k, ((fresh 0#8 (some 5#4)).setReg 1#4 0x15#8).key = some k →
      k.toNat ≠ (((fresh 0#8 (some 5#4)).setReg 1#4 0x15#8).reg 1#4).toNat) :=
  ⟨⟨5#4, by decide⟩, by decide, by decide⟩

/-- No key, and the key 0. -/
theorem test_witness_LdKeyWaitsOrTakes :
    start.key = none ∧ (fresh 0#8 (some 0#4)).key = some 0#4 := by decide

/-- A key instruction with `KEY_OPS` true, any other with it false. -/
theorem test_witness_DecodeInvertsEncode :
    (Instr.ldKey 3#4).wellFormed true = true ∧ (Instr.loadRegs 2#4).wellFormed false = true := by decide

theorem test_witness_DecodedWordIsTheEncoding :
    decodeWord true 0x05EE#16 = .ok .ret ∧ Instr.ret.wellFormed true = true ∧
      encode .ret = 0x05EE#16 &&& ~~~ ignoredBits .ret := by decide

theorem test_witness_OpcodeRowsSelectDisjointWords :
    decodeWord true 0x8124#16 = .ok (.addReg 1#4 2#4) ∧ opcodeRow (.addReg 0#4 0#4) ∈ opcodeMap ∧
      (opcodeRow (.addReg 0#4 0#4)).selects 0x8124#16 = true := by decide

theorem test_witness_UnrecognizedSpaceExact :
    (∃ e, decodeWord true 0x0000#16 = .error e) ∧ (∃ e, decodeWord true 0x812F#16 = .error e) ∧
      (∃ e, decodeWord false 0xE19E#16 = .error e) ∧ (∃ e, decodeWord true 0xF107#16 = .error e) ∧
      ∃ e, decodeWord false 0xF10A#16 = .error e :=
  ⟨⟨_, rfl⟩, ⟨_, rfl⟩, ⟨_, rfl⟩, ⟨_, rfl⟩, ⟨_, rfl⟩⟩

/-- The last legal fetch address. -/
def atTop : State := (start.setPc 0xFFE#16).withFetchWord 16 0x6105

theorem test_witness_StepRunsDecodedInstruction :
    atTop.faultCode = 0#3 ∧ atTop.halted = false ∧ atTop.pc.toNat ≤ 4094 ∧
      decodeWord atTop.params.keyOps
        (wordOfBytes (atTop.byteAt atTop.pc.toNat) (atTop.byteAt (atTop.pc.toNat + 1))) =
          .ok (.ldImm 1#4 5#8) := by decide

theorem test_witness_UnrecognizedWordIsNoOp :
    start.idle = false ∧ start.fetchWord = .ok 0#16 ∧
      decodeWord start.params.keyOps 0#16 = .error (.unassigned0 0#16) := by decide

/-- Faulted and halted; halted only. -/
theorem test_witness_IdleStepChangesNothing :
    ({ start with faultCode := 5#3, halted := true } : State).faultCode ≠ 0#3 ∧
      ({ start with halted := true } : State).faultCode = 0#3 ∧
      ({ start with halted := true } : State).halted = true := by decide

theorem test_witness_StoppedBlockStaysStopped :
    ({ start with faultCode := 5#3 } : State).idle = true ∧
      ({ start with halted := true } : State).idle = true := by decide

theorem test_witness_FetchAtTopOfMemory :
    (start.setPc 0xFFF#16).idle = false ∧ (start.setPc 0xFFF#16).pc.toNat = 4095 ∧
      atTop.idle = false ∧ atTop.pc.toNat = 4094 := by decide

theorem test_witness_FaultsArePrecise :
    step (start.setPc 0xFFF#16) = .next (start.setPc 0xFFF#16).afterStep ∧
      (start.setPc 0xFFF#16).afterStep.faultCode ≠ (start.setPc 0xFFF#16).faultCode := ⟨rfl, by decide⟩

/-- A state with `3000` (a skip that is taken) at `pc`. -/
def skipAt (pc : Word) : State := (start.setPc pc).withFetchWord 16 0x3000

/-- A wrap of the fetch advance, of the skip from 4092 and from 4093, and none. -/
theorem test_witness_WrapIsDiagnosed :
    atTop.idle = false ∧ Diag.pcWrap 0xFFE#16 ∈ stepEvents atTop ∧
      Diag.pcWrap 0xFFC#16 ∈ stepEvents (skipAt 0xFFC#16) ∧
      Diag.pcWrap 0xFFD#16 ∈ stepEvents (skipAt 0xFFD#16) ∧
      Diag.pcWrap 0xFFB#16 ∉ stepEvents (skipAt 0xFFB#16) := by decide

/-- The empty image, the largest image, and one byte more. -/
theorem test_witness_load :
    ([] : List Byte).length ≤ 3584 ∧ (List.replicate 3584 0x12#8).length ≤ 3584 ∧
      3584 < (List.replicate 3585 0x12#8).length := by
  refine ⟨Nat.zero_le _, ?_, ?_⟩ <;> rw [List.length_replicate]
  exact Nat.lt_succ_self _

theorem test_witness_StepKeepsInvariant :
    Inv start ∧ step start = .next start.afterStep := ⟨inv_start, rfl⟩

/-- Reset with parameters other than the defaults, and a faulted state one STEP on. -/
theorem test_witness_ReachableStatesMeetInvariant :
    Reachable (State.resetWith ⟨1, false, false⟩) ∧
      Reachable (transact (transact State.reset (.load [0x00#8, 0xEE#8])) (.step ⟨0#8, none⟩)) ∧
      (transact (transact State.reset (.load [0x00#8, 0xEE#8])) (.step ⟨0#8, none⟩)).faultCode = 1#3 :=
  ⟨.reset _, .transact _ _ (.transact _ _ (.reset _)), by decide⟩

theorem test_witness_OnlyDisplayWritersChangeDisplay :
    step (spriteState.withFetchWord 16 0xD011) = .next (spriteState.withFetchWord 16 0xD011).afterStep ∧
      (spriteState.withFetchWord 16 0xD011).afterStep.pixel 0 3 ≠
        (spriteState.withFetchWord 16 0xD011).pixel 0 3 := ⟨rfl, by decide⟩

/-- `F055` at 0x200 that stores 0x42 at 0x300. -/
def storing : State := ((start.setReg 0#4 0x42#8).setIndex 0x300#16).withFetchWord 16 0xF055

theorem test_witness_OnlyStoresChangeMemory :
    step storing = .next storing.afterStep ∧ storing.afterStep.byteAt 0x300 ≠ storing.byteAt 0x300 :=
  ⟨rfl, by decide⟩

theorem test_witness_RegisterWriters :
    ∃ t, exec (.addReg 1#4 2#4) (regs12 0xFF#8 0x02#8) = .next t ∧
      t.reg 1#4 ≠ (regs12 0xFF#8 0x02#8).reg 1#4 ∧ t.reg 0xF#4 ≠ (regs12 0xFF#8 0x02#8).reg 0xF#4 :=
  ⟨_, rfl, by decide, by decide⟩

/-- One instruction that changes `I`, one the stack, one `halted`, one `waiting_for_input`. -/
theorem test_witness_ControlStateWriters :
    (∃ t, exec (.ldI 1#12) start = .next t ∧ t.i ≠ start.i) ∧
      (∃ t, exec (.call 0x300#12) start = .next t ∧ ¬ StackSame start t) ∧
      (∃ t, exec (.jp 0x200#12) start = .next t ∧ t.halted ≠ start.halted) ∧
      ∃ t, exec (.ldKey 3#4) start = .next t ∧ t.waitingForInput ≠ start.waitingForInput :=
  ⟨⟨_, rfl, by decide⟩, ⟨_, rfl, fun h => absurd h.1 (by decide)⟩, ⟨_, rfl, by decide⟩,
    ⟨_, rfl, by decide⟩⟩

theorem test_witness_RandomByteReachesOnlyRnd :
    (∀ x nn, (Instr.ldKey 3#4) ≠ .rnd x nn) ∧
      ∃ t, exec (.ldKey 3#4) (State.reset.withInput ⟨0#8, some 7#4⟩) = .next t :=
  ⟨fun _ _ h => (nomatch h), _, rfl⟩

theorem test_witness_KeyReachesOnlyKeyOps :
    (Instr.rnd 3#4 0x0F#8).isKeyOp = false ∧
      ∃ t, exec (.rnd 3#4 0x0F#8) (State.reset.withInput ⟨0xA7#8, none⟩) = .next t :=
  ⟨rfl, _, rfl⟩

theorem test_witness_StepModeChangesNoStep : step storing = .next storing.afterStep := rfl

/-- The last free stack entry. -/
theorem test_witness_CallThenRetReturns :
    ∃ t, ({ start with sp := 15 } : State).stack.length = start.params.stackDepth ∧
      ({ start with sp := 15 } : State).sp < start.params.stackDepth ∧
      exec (.call 0x300#12) { start with sp := 15 } = .next t ∧ StackSame t t :=
  ⟨_, by decide, by decide, rfl, rfl, rfl⟩

/-- All 16 registers, the last byte at 4095. -/
theorem test_witness_StoreThenLoadRestoresRegisters :
    ∃ t, (start.setIndex 0xFF0#16).base + (0xF#4).toNat ≤ 4095 ∧
      exec (.storeRegs 0xF#4) (start.setIndex 0xFF0#16) = .next t ∧ MemSame t t ∧
      t.i = (start.setIndex 0xFF0#16).i := ⟨_, by decide, rfl, fun _ => rfl, rfl⟩

/-- P4: the two bytes at 0x202 stored from 0x200. -/
theorem test_witness_StoredCodeIsFetched :
    ∃ t, (start.setIndex 0x202#16).base + (1#4).toNat ≤ 4095 ∧
      exec (.storeRegs 1#4) (start.setIndex 0x202#16) = .next t ∧ (1#4).toNat = (0#4).toNat + 1 ∧
      (1#4).toNat ≤ (1#4).toNat ∧
      (start.setIndex 0x202#16).base + (0#4).toNat = ((start.setIndex 0x202#16).pc.toNat + 2) % 4096 :=
  ⟨_, by decide, rfl, by decide, by decide, by decide⟩

end Sys2Proof.Tests
end

section
/-! What an instruction can do, said once (10_state.md R21 to R33): every meaning answers a next state,
and that state is the one it began in with a fault taken, or with the few fields written that its
kind of instruction writes. The invariant and the lists of writers are read off these cases. -/

namespace Sys2Proof.Machine

/-! ## Memory writers and stop states -/

/-- What a transfer to memory leaves: the state it began in but for memory, canonical if it was. -/
theorem State.writeBytes_onlyMem {s t : State} {a : Nat} {bs : List Byte}
    (h : s.writeBytes a bs = .ok t) :
    ∃ m, t = { s with mem := m } ∧ (s.mem.wf = true → Memory.wf m = true) := by
  obtain ⟨hok, herr⟩ := State.writeBytes_spec bs s a
  by_cases hin : bs = [] ∨ a + bs.length ≤ 4096
  · obtain ⟨m, hm, -, hwf⟩ := hok hin
    rw [hm] at h
    cases h
    exact ⟨m, rfl, hwf⟩
  · rw [herr hin] at h
    cases h

/-- An image that ends in memory is written to memory alone, which stays canonical
(70_reset_and_hazards.md R243). -/
theorem State.writeImage_onlyMem (image : List Byte) :
    ∀ (s : State) (a : Nat), a + image.length ≤ memSize →
      ∃ m, s.writeImage a image = { s with mem := m } ∧ (s.mem.wf = true → Memory.wf m = true) := by
  induction image with
  | nil => exact fun s a _ => ⟨s.mem, rfl, id⟩
  | cons b bs ih =>
    intro s a hlen
    rw [List.length_cons] at hlen
    obtain ⟨m, hm, hwf⟩ := ih (s.setByte a b) (a + 1) (by omega)
    exact ⟨m, hm, fun hs => hwf (Memory.wf_store hs (by omega) b)⟩

theorem State.idle_eq_false_iff (s : State) :
    s.idle = false ↔ s.faultCode = 0#3 ∧ s.halted = false := by
  simp [State.idle]

/-! ## The fields outside every instruction's reach -/

/-- The state with `step_mode` and the model's own input fields mapped: what separates two runs of an
instruction that reads none of them. -/
def State.mapHost (g : Bool → Bool) (h : List StepInput → List StepInput) (k : Nat → Nat) (s : State) :
    State :=
  { s with stepMode := g s.stepMode, inputs := h s.inputs, inputIndex := k s.inputIndex }

theorem State.consumeInput_eq_mapHost (s : State) :
    s.consumeInput = s.mapHost id List.tail (· + 1) := rfl

theorem State.withInput_eq_mapHost (s : State) (inp : StepInput) :
    s.withInput inp = s.mapHost id (inp :: ·) id := rfl

theorem setStepMode_eq_mapHost (bit : Bool) (s : State) :
    setStepMode bit s = s.mapHost (fun _ => bit) id id := rfl

/-! ## The state an instruction ends in -/

/-- The kinds of effect an instruction can have on the state `s` it runs in: a fault, or the writes of
its kind. -/
inductive ExecEffect (i : Instr) (s : State) : State → Prop where
  /-- Fault entry (60_exceptions.md R212). -/
  | fault (f : Fault) : ExecEffect i s (s.takeFault f)
  /-- A skip, taken or not, and the jump of `Bnnn`: `pc` only. -/
  | control (a : Word) (hpc : a.toNat ≤ 4095) : ExecEffect i s (s.setPc a)
  /-- General registers the instruction may write (10_state.md R21). -/
  | registers (v : Vector Byte 16)
      (hv : ∀ j : Nibble, ¬ mayWriteReg i j → v[j.toNat]'j.isLt = s.reg j) :
      ExecEffect i s { s.advance with v := v }
  /-- The display is cleared (43_display.md R180). -/
  | clear (hi : i = .cls) : ExecEffect i s (s.advance.setDisp Display.dark)
  /-- The display is drawn on, and VF holds the collision (43_display.md R182). -/
  | draw (x y n : Nibble) (d : Drawing) (hi : i = .drw x y n) :
      ExecEffect i s (s.advance.setDrawing d)
  /-- `I` is written (10_state.md R26). -/
  | index (a : Word) (hi : (∃ nnn, i = .ldI nnn) ∨ ∃ x, i = .addI x) :
      ExecEffect i s (s.advance.setIndex a)
  /-- Bytes are stored from `I` up (42_index_memory.md R162, R163). -/
  | store (bs : List Byte) (t : State)
      (hi : (∃ x, i = .ldBcd x ∧ bs = decimalDigits (s.reg x)) ∨
        ∃ x, i = .storeRegs x ∧ bs = s.regsThrough x)
      (ht : s.advance.writeBytes s.base bs = .ok t) : ExecEffect i s t
  /-- `1nnn`: the jump, and the halt on itself (40_control_flow.md R111). -/
  | jump (nnn : Addr) (hi : i = .jp nnn) :
      ExecEffect i s { s.setPc (zextAddr nnn) with halted := s.selfJumpHalts nnn || s.halted }
  /-- RET with a return address to pop (40_control_flow.md R110). -/
  | ret (hi : i = .ret) (hsp : 0 < s.sp) :
      ExecEffect i s { s with sp := s.sp - 1, pc := s.stackEntry (s.sp - 1) }
  /-- CALL with room on the stack (40_control_flow.md R112). -/
  | call (nnn : Addr) (hi : i = .call nnn) (hsp : s.sp < s.params.stackDepth) :
      ExecEffect i s { s with
        stack := s.stack.set s.sp (pcPlus2 s.pc), sp := s.sp + 1, pc := zextAddr nnn }
  /-- LD Vx, K with no key: the block waits at the same word (44_input.md R203). -/
  | waitKey (x : Nibble) (hi : i = .ldKey x) : ExecEffect i s { s with waitingForInput := true }
  /-- LD Vx, K with a key (44_input.md R203). -/
  | takeKey (x k : Nibble) (hi : i = .ldKey x) :
      ExecEffect i s { s.advance.setReg x (zextKey k) with waitingForInput := false }

variable {i : Instr} {s : State}

theorem zextAddr_toNat (nnn : Addr) : (zextAddr nnn).toNat = nnn.toNat :=
  BitVec.toNat_setWidth_of_le (by decide)

theorem zextAddr_le (nnn : Addr) : (zextAddr nnn).toNat ≤ 4095 := by
  rw [zextAddr_toNat]
  exact Nat.le_of_lt_succ nnn.isLt

theorem pcPlus2_le (a : Word) : (pcPlus2 a).toNat ≤ 4095 := by
  rw [pcPlus2_toNat]
  omega

/-- A skip, taken or not, is an effect on `pc` alone. -/
theorem ExecEffect.ofSkipIf (c : Bool) : ExecEffect i s (s.advance.skipIf c) := by
  cases c with
  | false => exact .control _ (pcPlus2_le _)
  | true => exact .control _ (pcPlus2_le _)

/-- Writing one register the instruction may write. -/
theorem ExecEffect.ofSetReg {x : Nibble} (b : Byte) (hx : mayWriteReg i x) :
    ExecEffect i s (s.advance.setReg x b) := by
  refine .registers _ fun j hj => ?_
  have hne : j ≠ x := fun e => hj (e ▸ hx)
  exact (State.reg_setReg s x j b).trans (if_neg hne)

/-- Writing a result and VF, both of which the instruction may write. -/
theorem ExecEffect.ofSetResultFlag {x : Nibble} (r f : Byte) (hx : mayWriteReg i x)
    (hf : mayWriteReg i flagReg) : ExecEffect i s (s.advance.setResultFlag x r f) := by
  refine .registers _ fun j hj => ?_
  have hne : j ≠ x := fun e => hj (e ▸ hx)
  have hnf : j ≠ 0xF#4 := fun e => hj (e ▸ hf)
  exact (State.reg_setResultFlag s x j r f).trans ((if_neg hnf).trans (if_neg hne))

/-- Storing bytes from `I` up, or the fault of a byte above 4095. -/
theorem ExecEffect.ofStore {bs : List Byte}
    (hi : (∃ x, i = .ldBcd x ∧ bs = decimalDigits (s.reg x)) ∨
      ∃ x, i = .storeRegs x ∧ bs = s.regsThrough x) :
    ExecEffect i s (settle s (s.advance.writeBytes s.base bs)) := by
  cases hw : s.advance.writeBytes s.base bs with
  | error f => exact .fault f
  | ok t => exact .store bs t hi hw

theorem execRet_effect : ∃ t, execRet s = .next t ∧ ExecEffect .ret s t := by
  obtain ⟨-, hp⟩ | ⟨hsp, hp⟩ := s.advance.pop_cases
  · exact ⟨_, by rw [execRet, hp]; rfl, .fault _⟩
  · exact ⟨_, by rw [execRet, hp]; rfl, .ret rfl hsp⟩

theorem execCall_effect (nnn : Addr) :
    ∃ t, execCall nnn s = .next t ∧ ExecEffect (.call nnn) s t := by
  obtain ⟨-, hp⟩ | ⟨hsp, hp⟩ := s.advance.push_cases s.advance.pc
  · exact ⟨_, by rw [execCall, hp]; rfl, .fault _⟩
  · exact ⟨_, by rw [execCall, hp]; rfl, .call nnn rfl hsp⟩

theorem execJpV0_effect (nnn : Addr) :
    ∃ t, execJpV0 nnn s = .next t ∧ ExecEffect (.jpV0 nnn) s t := by
  by_cases h : s.jumpTarget nnn > 4095
  · exact ⟨_, by rw [execJpV0, if_pos h]; rfl, .fault _⟩
  · refine ⟨_, by rw [execJpV0, if_neg h]; rfl, .control _ ?_⟩
    rw [BitVec.toNat_ofNat]
    omega

theorem execDrw_effect (x y n : Nibble) :
    ∃ t, execDrw x y n s = .next t ∧ ExecEffect (.drw x y n) s t := by
  cases hr : s.readBytes s.base n.toNat with
  | error f => exact ⟨_, by rw [execDrw, hr]; rfl, .fault f⟩
  | ok bs => exact ⟨_, by rw [execDrw, hr]; rfl, .draw x y n _ rfl⟩

theorem execLoadRegs_effect (x : Nibble) :
    ∃ t, execLoadRegs x s = .next t ∧ ExecEffect (.loadRegs x) s t := by
  have hread := State.readBytes_spec s (x.toNat + 1) s.base
  split at hread
  · refine ⟨_, by rw [execLoadRegs, hread], ?_⟩
    obtain ⟨v, hs, hv⟩ := State.setRegsFrom_spec
      ((List.range (x.toNat + 1)).map fun k => s.byteAt (s.base + k)) s.advance 0
    rw [settle_ok, hs]
    refine .registers v fun j hj => ?_
    have hlt : ¬ j.toNat < x.toNat + 1 := fun h => hj (Nat.le_of_lt_succ h)
    simp [hv, hlt, State.reg]
  · exact ⟨_, by rw [execLoadRegs, hread]; rfl, .fault _⟩

theorem execLdKey_effect (x : Nibble) :
    ∃ t, execLdKey x s = .next t ∧ ExecEffect (.ldKey x) s t := by
  cases hk : s.key with
  | none => exact ⟨_, by rw [execLdKey, hk]; rfl, .waitKey x rfl⟩
  | some k => exact ⟨_, by rw [execLdKey, hk], .takeKey x k rfl⟩

/-- Every instruction answers a next state, by one of the effects. -/
theorem exec_effect (i : Instr) (s : State) : ∃ t, exec i s = .next t ∧ ExecEffect i s t := by
  cases i with
  | cls => exact ⟨_, rfl, .clear rfl⟩
  | ret => exact execRet_effect
  | jp nnn => exact ⟨_, rfl, .jump nnn rfl⟩
  | call nnn => exact execCall_effect nnn
  | seImm x nn => exact ⟨_, rfl, .ofSkipIf _⟩
  | sneImm x nn => exact ⟨_, rfl, .ofSkipIf _⟩
  | seReg x y => exact ⟨_, rfl, .ofSkipIf _⟩
  | ldImm x nn => exact ⟨_, rfl, .ofSetReg _ rfl⟩
  | addImm x nn => exact ⟨_, rfl, .ofSetReg _ rfl⟩
  | ldReg x y => exact ⟨_, rfl, .ofSetReg _ rfl⟩
  | orReg x y => exact ⟨_, rfl, .ofSetReg _ rfl⟩
  | andReg x y => exact ⟨_, rfl, .ofSetReg _ rfl⟩
  | xorReg x y => exact ⟨_, rfl, .ofSetReg _ rfl⟩
  | addReg x y => exact ⟨_, rfl, .ofSetResultFlag _ _ (.inl rfl) (.inr rfl)⟩
  | subReg x y => exact ⟨_, rfl, .ofSetResultFlag _ _ (.inl rfl) (.inr rfl)⟩
  | shrReg x y => exact ⟨_, rfl, .ofSetResultFlag _ _ (.inl rfl) (.inr rfl)⟩
  | subnReg x y => exact ⟨_, rfl, .ofSetResultFlag _ _ (.inl rfl) (.inr rfl)⟩
  | shlReg x y => exact ⟨_, rfl, .ofSetResultFlag _ _ (.inl rfl) (.inr rfl)⟩
  | sneReg x y => exact ⟨_, rfl, .ofSkipIf _⟩
  | ldI nnn => exact ⟨_, rfl, .index _ (.inl ⟨nnn, rfl⟩)⟩
  | jpV0 nnn => exact execJpV0_effect nnn
  | rnd x nn => exact ⟨_, rfl, .ofSetReg _ rfl⟩
  | drw x y n => exact execDrw_effect x y n
  | skp x => exact ⟨_, rfl, .ofSkipIf _⟩
  | sknp x => exact ⟨_, rfl, .ofSkipIf _⟩
  | ldKey x => exact execLdKey_effect x
  | addI x => exact ⟨_, rfl, .index _ (.inr ⟨x, rfl⟩)⟩
  | ldBcd x => exact ⟨_, rfl, .ofStore (.inl ⟨x, rfl, rfl⟩)⟩
  | storeRegs x => exact ⟨_, rfl, .ofStore (.inr ⟨x, rfl, rfl⟩)⟩
  | loadRegs x => exact execLoadRegs_effect x

/-- The inversion lemma of `exec`: its next state is one of the effects. -/
theorem ExecEffect.of_exec {t : State} (h : exec i s = .next t) : ExecEffect i s t := by
  obtain ⟨u, hu, he⟩ := exec_effect i s
  rw [hu] at h
  cases h
  exact he

/-- Every STEP ends in a next state (60_exceptions.md R225). -/
theorem step_answers_next (s : State) : ∃ t, step s = .next t := by
  obtain ⟨-, h⟩ | ⟨-, f, -, h⟩ | ⟨-, w, e, -, -, h⟩ | ⟨-, w, i, -, -, h⟩ := step_cases s
  · exact ⟨_, h⟩
  · exact ⟨_, h⟩
  · exact ⟨_, h⟩
  · obtain ⟨t, ht, -⟩ := exec_effect i s
    exact ⟨t.consumeInput, by rw [h, ht]; rfl⟩

end Sys2Proof.Machine
end

section
/-! The invariant `Inv` of the reachable states: kept by every effect an instruction can have, hence by
every STEP, and by LOAD and SET_STEP_MODE (10_state.md R25 to R33, 60_exceptions.md R212). -/

namespace Sys2Proof

open Sys2Proof.Machine

/-! ## The decoder's gate -/

theorem decode0_wellFormed {k : Bool} {w : Word} {i : Instr} (h : decode0 w = .ok i) :
    i.wellFormed k = true := by
  unfold decode0 at h
  split at h
  · cases h; exact Bool.or_true k
  · split at h
    · cases h; exact Bool.or_true k
    · cases h

theorem decode8_wellFormed {k : Bool} {w : Word} {i : Instr} (h : decode8 w = .ok i) :
    i.wellFormed k = true := by
  unfold decode8 at h
  repeat' split at h
  all_goals cases h
  all_goals exact Bool.or_true k

theorem decodeE_wellFormed {k : Bool} {w : Word} {i : Instr} (h : decodeE k w = .ok i) :
    i.wellFormed k = true := by
  unfold decodeE at h
  split at h
  · next hk => cases h; simp [Instr.wellFormed, hk.1]
  · split at h
    · next hk => cases h; simp [Instr.wellFormed, hk.1]
    · cases h

theorem decodeF_wellFormed {k : Bool} {w : Word} {i : Instr} (h : decodeF k w = .ok i) :
    i.wellFormed k = true := by
  unfold decodeF at h
  split at h
  · next hk => cases h; simp [Instr.wellFormed, hk.1]
  · repeat' split at h
    all_goals cases h
    all_goals exact Bool.or_true k

/-- The decoder answers only well-formed instructions (44_input.md R200). -/
theorem decodeWord_wellFormed {k : Bool} {w : Word} {i : Instr} (h : decodeWord k w = .ok i) :
    i.wellFormed k = true := by
  unfold decodeWord at h
  split at h
  case h_1 => exact decode0_wellFormed h
  case h_9 => exact decode8_wellFormed h
  case h_15 => exact decodeE_wellFormed h
  case h_16 => exact decodeF_wellFormed h
  all_goals cases h
  all_goals exact Bool.or_true k

/-- A key instruction is decoded under `KEY_OPS` only (44_input.md R200). -/
theorem Instr.keyOps_of_wellFormed {k : Bool} {i : Instr} (hw : i.wellFormed k = true)
    (hi : i.isKeyOp = true) : k = true := by
  simpa [Instr.wellFormed, hi] using hw

/-! ## What keeps the invariant -/

variable {s : State}

theorem Inv.mapHost (h : Inv s) (g : Bool → Bool) (l : List StepInput → List StepInput)
    (k : Nat → Nat) : Inv (s.mapHost g l k) := { h with }

theorem Inv.consumeInput (h : Inv s) : Inv s.consumeInput := by
  rw [State.consumeInput_eq_mapHost]
  exact h.mapHost _ _ _

theorem Inv.withInput (h : Inv s) (inp : StepInput) : Inv (s.withInput inp) := by
  rw [State.withInput_eq_mapHost]
  exact h.mapHost _ _ _

theorem Inv.setStepMode (h : Inv s) (bit : Bool) : Inv (setStepMode bit s) := by
  rw [setStepMode_eq_mapHost]
  exact h.mapHost _ _ _

/-- The fields an instruction that runs to its end may write, other than the stack and the control
flags, with any values of them that keep `pc` in memory and memory canonical. -/
theorem Inv.setData (h : Inv s) (hf : s.faultCode = 0#3) {a : Word} (ha : a.toNat ≤ 4095) {m : Memory}
    (hm : Memory.wf m = true) (v : Vector Byte 16) (j : Word) (d : Display) :
    Inv { s with pc := a, mem := m, v := v, i := j, disp := d } :=
  { h with
    pcInMemory := ha
    memWf := hm
    faultPcIsPc := fun hne => absurd hf hne }

/-- Fault entry from a state that has not stopped (60_exceptions.md R212). -/
theorem Inv.takeFault (h : Inv s) (hidle : s.idle = false) (f : Fault) : Inv (s.takeFault f) := by
  obtain ⟨-, hhalt⟩ := s.idle_eq_false_iff.mp hidle
  obtain ⟨hlo, hhi⟩ := f.code_range
  have hne : f.code ≠ 0#3 := fun e => by simp [e] at hlo
  exact { h with
    faultCodeLegal := hhi
    faultPcInMemory := h.pcInMemory
    noFaultNoRecord := fun e => absurd e hne
    faultPcIsPc := fun _ => rfl
    haltedNotFaulted := fun e => absurd (hhalt.symm.trans e) Bool.false_ne_true }

/-- A return address the stack holds is an address of memory, and so is the 0 an absent one reads as. -/
theorem Inv.stackEntry_le (h : Inv s) (k : Nat) : (s.stackEntry k).toNat ≤ 4095 := by
  rw [State.stackEntry, List.getD_eq_getElem?_getD]
  cases hk : s.stack[k]? with
  | none => simp
  | some a => exact h.entriesInMemory a (List.mem_of_getElem? hk)

/-- The self-jump halt (40_control_flow.md R111) halts a running block, and only under
`SELF_JUMP_HALT`. -/
theorem Inv.jump (h : Inv s) (hf : s.faultCode = 0#3) (nnn : Addr) :
    Inv { s.setPc (zextAddr nnn) with halted := s.selfJumpHalts nnn || s.halted } :=
  { h with
    pcInMemory := zextAddr_le nnn
    faultPcIsPc := fun hne => absurd hf hne
    haltedNotFaulted := fun _ => hf
    haltNeedsParam := fun hp => by
      have hp' : s.params.selfJumpHalt = false := hp
      simp [State.selfJumpHalts, hp', h.haltNeedsParam hp'] }

/-- A pop lowers `sp` and jumps to a return address (40_control_flow.md R110). -/
theorem Inv.ret (h : Inv s) (hf : s.faultCode = 0#3) :
    Inv { s with sp := s.sp - 1, pc := s.stackEntry (s.sp - 1) } :=
  { h with
    pcInMemory := h.stackEntry_le _
    spInStack := (Nat.sub_le _ _).trans h.spInStack
    faultPcIsPc := fun hne => absurd hf hne }

/-- A push onto a stack with room keeps its entries addresses of memory (40_control_flow.md R112). -/
theorem Inv.call (h : Inv s) (hf : s.faultCode = 0#3) (hsp : s.sp < s.params.stackDepth)
    (nnn : Addr) :
    Inv { s with stack := s.stack.set s.sp (pcPlus2 s.pc), sp := s.sp + 1, pc := zextAddr nnn } :=
  { h with
    pcInMemory := zextAddr_le nnn
    stackLength := List.length_set.trans h.stackLength
    spInStack := hsp
    entriesInMemory := fun a ha =>
      (List.mem_or_eq_of_mem_set ha).elim (h.entriesInMemory a) fun e => e ▸ pcPlus2_le s.pc
    faultPcIsPc := fun hne => absurd hf hne }

/-- `waiting_for_input` may take any value where `KEY_OPS` is true (10_state.md R32). -/
theorem Inv.setWaiting (h : Inv s) (hk : s.params.keyOps = true) (b : Bool) :
    Inv { s with waitingForInput := b } :=
  { h with waitNeedsParam := fun hn => absurd (hk.symm.trans hn) Bool.noConfusion }

/-- Every effect of an instruction the decoder gives keeps the invariant of a running block. -/
theorem Inv.execEffect (h : Inv s) (hidle : s.idle = false) {i : Instr}
    (hw : i.wellFormed s.params.keyOps = true) {t : State} (he : ExecEffect i s t) : Inv t := by
  obtain ⟨hf, -⟩ := s.idle_eq_false_iff.mp hidle
  cases he with
  | fault f => exact h.takeFault hidle f
  | control a ha => exact h.setData hf ha h.memWf _ _ _
  | registers v hv => exact h.setData hf (pcPlus2_le _) h.memWf _ _ _
  | clear hi => exact h.setData hf (pcPlus2_le _) h.memWf _ _ _
  | draw x y n d hi => exact h.setData hf (pcPlus2_le _) h.memWf _ _ _
  | index a hi => exact h.setData hf (pcPlus2_le _) h.memWf _ _ _
  | store bs t hi ht =>
    obtain ⟨m, rfl, hm⟩ := State.writeBytes_onlyMem ht
    exact h.setData hf (pcPlus2_le _) (hm h.memWf) _ _ _
  | jump nnn hi => exact h.jump hf nnn
  | ret hi hsp => exact h.ret hf
  | call nnn hi hsp => exact h.call hf hsp nnn
  | waitKey x hi =>
    exact h.setWaiting (Instr.keyOps_of_wellFormed hw (by rw [hi]; rfl)) true
  | takeKey x k hi =>
    have hk := Instr.keyOps_of_wellFormed hw (by rw [hi]; rfl)
    exact (h.setData hf (pcPlus2_le _) h.memWf _ _ _).setWaiting hk false

/-- A STEP keeps the invariant, whichever of its four ways it goes. -/
theorem step_keepsInv {t : State} (h : Inv s) (hstep : step s = .next t) : Inv t := by
  obtain ⟨-, hs⟩ | ⟨hidle, f, -, hs⟩ | ⟨hidle, w, e, -, -, hs⟩ | ⟨hidle, w, i, -, hd, hs⟩ :=
    step_cases s
  all_goals rw [hs] at hstep
  · cases hstep
    exact h.consumeInput
  · cases hstep
    exact (h.takeFault hidle f).consumeInput
  · cases hstep
    obtain ⟨hf, -⟩ := s.idle_eq_false_iff.mp hidle
    have hnop : Inv s.noOp := h.setData hf (pcPlus2_le s.pc) h.memWf _ _ _
    exact hnop.consumeInput
  · obtain ⟨u, hu, he⟩ := exec_effect i s
    rw [hu] at hstep
    cases hstep
    exact (h.execEffect hidle (decodeWord_wellFormed hd) he).consumeInput

/-! ## The other transactions -/

/-- LOAD clears the stop states, so nothing of a fault or a halt is left to bound (60_exceptions.md
R213, R214). -/
theorem Inv.clearStops (h : Inv s) {a : Word} (ha : a.toNat ≤ 4095) {m : Memory}
    (hm : Memory.wf m = true) : Inv (({ s with mem := m }.setPc a).clearStops) :=
  { h with
    memWf := hm
    pcInMemory := ha
    faultCodeLegal := Nat.zero_le 5
    faultPcInMemory := Nat.zero_le 4095
    noFaultNoRecord := fun _ => rfl
    faultPcIsPc := fun hne => absurd rfl hne
    haltedNotFaulted := fun _ => rfl
    haltNeedsParam := fun _ => rfl
    waitNeedsParam := fun _ => rfl }

/-- A LOAD keeps the invariant, refused or not (70_reset_and_hazards.md R243, R244). -/
theorem load_keepsInv (h : Inv s) (image : List Byte) : Inv (load image s).2 := by
  rw [load]
  split
  · next hlen =>
    have hend : progBase + image.length ≤ memSize := by
      simp only [progBase, progMax, memSize] at hlen ⊢
      omega
    obtain ⟨m, hm, hwf⟩ := State.writeImage_onlyMem image s progBase hend
    rw [hm]
    exact h.clearStops (by decide) (hwf h.memWf)
  · exact h

/-- Every transaction keeps the invariant (10_state.md R50). -/
theorem transact_keepsInv (h : Inv s) (t : Transaction) : Inv (transact s t) := by
  cases t with
  | step inp =>
    obtain ⟨u, hu⟩ := step_answers_next (s.withInput inp)
    have hafter : transact s (.step inp) = u := congrArg (stateAfter (s.withInput inp)) hu
    rw [hafter]
    exact step_keepsInv (h.withInput inp) hu
  | load image => exact load_keepsInv h image
  | setStepMode bit => exact h.setStepMode bit

/-- The state after reset meets the invariant (10_state.md R37). -/
theorem Inv.resetWith (p : Params) : Inv (State.resetWith p) where
  memWf := Memory.wf_reset p
  pcInMemory := by simp [State.resetWith]
  stackLength := List.length_replicate
  spInStack := Nat.zero_le _
  entriesInMemory := fun a ha => by simp [List.eq_of_mem_replicate ha]
  faultCodeLegal := Nat.zero_le 5
  faultPcInMemory := Nat.zero_le 4095
  noFaultNoRecord := fun _ => rfl
  faultPcIsPc := fun hne => absurd rfl hne
  haltedNotFaulted := fun _ => rfl
  haltNeedsParam := fun _ => rfl
  waitNeedsParam := fun _ => rfl

/-- Settles O45: each bound holds of the zeros and of `pc = 0x200`. -/
theorem invariantAtReset : Obligations.InvariantAtReset := Inv.resetWith

/-- Settles O46, by the effect of the decoded instruction. -/
theorem stepKeepsInvariant : Obligations.StepKeepsInvariant := fun _ _ => step_keepsInv

/-- Settles O47, by induction on how the state was reached. -/
theorem reachableStatesMeetInvariant : Obligations.ReachableStatesMeetInvariant := by
  intro s hs
  induction hs with
  | reset p => exact Inv.resetWith p
  | transact s t _ ih => exact transact_keepsInv ih t

end Sys2Proof
end

section
/-! What an instruction writes, read off its effect (10_state.md R21 to R32), and what it reads of the
STEP's inputs and of `step_mode`: a run commutes with any change of what it does not read (R31, R54,
R55). -/

namespace Sys2Proof.Machine

variable {i : Instr} {s t : State}

/-! ## Writers, read off the effect -/

/-- An effect changes only the registers the instruction may write (10_state.md R21). -/
theorem ExecEffect.reg_eq (he : ExecEffect i s t) {j : Nibble} (hj : ¬ mayWriteReg i j) :
    t.reg j = s.reg j := by
  cases he with
  | registers v hv => exact hv j hj
  | draw x y n d hi =>
    subst hi
    exact (State.reg_setFlag _ j _).trans (if_neg hj)
  | store bs t hi ht =>
    obtain ⟨m, rfl, -⟩ := State.writeBytes_onlyMem ht
    rfl
  | takeKey x k hi =>
    subst hi
    exact (State.reg_setReg s x j _).trans (if_neg hj)
  | fault | control | clear | index | jump | ret | call | waitKey => rfl

/-- `I` is written by LD I and ADD I only (10_state.md R26). -/
theorem ExecEffect.index_eq (he : ExecEffect i s t) :
    t.i = s.i ∨ (∃ nnn, i = .ldI nnn) ∨ ∃ x, i = .addI x := by
  cases he with
  | index a hi => exact .inr hi
  | store bs t hi ht =>
    obtain ⟨m, rfl, -⟩ := State.writeBytes_onlyMem ht
    exact .inl rfl
  | fault | control | registers | clear | draw | jump | ret | call | waitKey | takeKey =>
    exact .inl rfl

/-- The stack is written by RET and CALL only (10_state.md R27). -/
theorem ExecEffect.stackSame (he : ExecEffect i s t) :
    StackSame s t ∨ i = .ret ∨ ∃ nnn, i = .call nnn := by
  cases he with
  | ret hi => exact .inr (.inl hi)
  | call nnn hi => exact .inr (.inr ⟨nnn, hi⟩)
  | store bs t hi ht =>
    obtain ⟨m, rfl, -⟩ := State.writeBytes_onlyMem ht
    exact .inl ⟨rfl, rfl⟩
  | fault | control | registers | clear | draw | index | jump | waitKey | takeKey =>
    exact .inl ⟨rfl, rfl⟩

/-- The self-jump halt asks for the parameter and for the jump's own address (40_control_flow.md
R111). -/
theorem State.selfJumpHalts_iff (s : State) (nnn : Addr) :
    s.selfJumpHalts nnn = true ↔ nnn.toNat = s.pc.toNat ∧ s.params.selfJumpHalt = true := by
  rw [State.selfJumpHalts, Bool.and_eq_true, beq_iff_eq, ← BitVec.toNat_inj, zextAddr_toNat,
    eq_comm (a := s.pc.toNat), and_comm]

/-- `halted` is written by a jump to its own address under `SELF_JUMP_HALT` only (10_state.md R30). -/
theorem ExecEffect.halted_eq (he : ExecEffect i s t) :
    t.halted = s.halted ∨
      ∃ nnn, i = .jp nnn ∧ nnn.toNat = s.pc.toNat ∧ s.params.selfJumpHalt = true := by
  cases he with
  | jump nnn hi =>
    cases hh : s.selfJumpHalts nnn with
    | false => exact .inl (Bool.false_or _)
    | true => exact .inr ⟨nnn, hi, (s.selfJumpHalts_iff nnn).mp hh⟩
  | store bs t hi ht =>
    obtain ⟨m, rfl, -⟩ := State.writeBytes_onlyMem ht
    exact .inl rfl
  | fault | control | registers | clear | draw | index | ret | call | waitKey | takeKey =>
    exact .inl rfl

/-- `waiting_for_input` is written by LD Vx, K only (10_state.md R32). -/
theorem ExecEffect.waiting_eq (he : ExecEffect i s t) :
    t.waitingForInput = s.waitingForInput ∨ ∃ x, i = .ldKey x := by
  cases he with
  | waitKey x hi => exact .inr ⟨x, hi⟩
  | takeKey x k hi => exact .inr ⟨x, hi⟩
  | store bs t hi ht =>
    obtain ⟨m, rfl, -⟩ := State.writeBytes_onlyMem ht
    exact .inl rfl
  | fault | control | registers | clear | draw | index | jump | ret | call => exact .inl rfl

/-- No effect writes `step_mode` or the parameters (10_state.md R31, R36). -/
theorem ExecEffect.mode_params_eq (he : ExecEffect i s t) :
    t.stepMode = s.stepMode ∧ t.params = s.params := by
  cases he with
  | store bs t hi ht =>
    obtain ⟨m, rfl, -⟩ := State.writeBytes_onlyMem ht
    exact ⟨rfl, rfl⟩
  | fault | control | registers | clear | draw | index | jump | ret | call | waitKey | takeKey =>
    exact ⟨rfl, rfl⟩

/-! ## Operations that commute with a change of the host's fields -/

section Commute

variable (g : Bool → Bool) (l : List StepInput → List StepInput) (k : Nat → Nat)

theorem State.advance_skipIf_mapHost (s : State) (c : Bool) :
    (s.mapHost g l k).advance.skipIf c = (s.advance.skipIf c).mapHost g l k := by
  cases c <;> rfl

theorem State.push_mapHost (s : State) (a : Word) :
    (s.mapHost g l k).push a = (s.push a).map (State.mapHost g l k) := by
  rw [State.push, State.push, apply_ite (Except.map (State.mapHost g l k))]
  rfl

theorem State.pop_mapHost (s : State) :
    (s.mapHost g l k).pop = s.pop.map (Prod.map id (State.mapHost g l k)) := by
  rw [State.pop, State.pop, apply_ite (Except.map (Prod.map id (State.mapHost g l k)))]
  rfl

theorem State.readBytes_mapHost (s : State) (a n : Nat) :
    (s.mapHost g l k).readBytes a n = s.readBytes a n := by
  rw [State.readBytes_spec, State.readBytes_spec]
  rfl

theorem State.memWrite_mapHost (s : State) (a : Nat) (b : Byte) :
    (s.mapHost g l k).memWrite a b = (s.memWrite a b).map (State.mapHost g l k) := by
  rw [State.memWrite, State.memWrite, apply_ite (Except.map (State.mapHost g l k))]
  rfl

theorem State.writeBytes_mapHost (bs : List Byte) :
    ∀ (s : State) (a : Nat),
      (s.mapHost g l k).writeBytes a bs = (s.writeBytes a bs).map (State.mapHost g l k) := by
  induction bs with
  | nil => exact fun s a => rfl
  | cons b bs ih =>
    intro s a
    rw [State.writeBytes, State.writeBytes, State.memWrite_mapHost]
    cases s.memWrite a b with
    | error f => rfl
    | ok t => exact ih t (a + 1)

theorem State.setRegsFrom_mapHost (bs : List Byte) :
    ∀ (s : State) (n : Nat),
      (s.mapHost g l k).setRegsFrom n bs = (s.setRegsFrom n bs).mapHost g l k := by
  induction bs with
  | nil => exact fun s n => rfl
  | cons b bs ih => exact fun s n => ih { s with v := s.v.setIfInBounds n b } (n + 1)

theorem settle_mapHost (s : State) (r : Except Fault State) :
    settle (s.mapHost g l k) (r.map (State.mapHost g l k)) = (settle s r).mapHost g l k := by
  cases r <;> rfl

theorem execRet_mapHost (s : State) :
    execRet (s.mapHost g l k) = .next ((stateAfter s (execRet s)).mapHost g l k) := by
  have hp : (s.mapHost g l k).advance.pop = _ := State.pop_mapHost g l k s.advance
  rw [execRet, execRet, hp]
  cases s.advance.pop <;> rfl

theorem execCall_mapHost (s : State) (nnn : Addr) :
    execCall nnn (s.mapHost g l k) = .next ((stateAfter s (execCall nnn s)).mapHost g l k) := by
  have hp : (s.mapHost g l k).advance.push (s.mapHost g l k).advance.pc = _ :=
    State.push_mapHost g l k s.advance s.advance.pc
  rw [execCall, execCall, hp]
  cases s.advance.push s.advance.pc <;> rfl

theorem execJpV0_mapHost (s : State) (nnn : Addr) :
    execJpV0 nnn (s.mapHost g l k) = .next ((stateAfter s (execJpV0 nnn s)).mapHost g l k) := by
  have ht : (s.mapHost g l k).jumpTarget nnn = s.jumpTarget nnn := rfl
  rw [execJpV0, execJpV0, ht]
  split <;> rfl

theorem execDrw_mapHost (s : State) (x y n : Nibble) :
    execDrw x y n (s.mapHost g l k) = .next ((stateAfter s (execDrw x y n s)).mapHost g l k) := by
  have hr : (s.mapHost g l k).readBytes (s.mapHost g l k).base n.toNat = _ :=
    State.readBytes_mapHost g l k s s.base n.toNat
  rw [execDrw, execDrw, hr]
  cases s.readBytes s.base n.toNat <;> rfl

theorem execLoadRegs_mapHost (s : State) (x : Nibble) :
    execLoadRegs x (s.mapHost g l k) = .next ((stateAfter s (execLoadRegs x s)).mapHost g l k) := by
  have hr : (s.mapHost g l k).readBytes (s.mapHost g l k).base (x.toNat + 1) = _ :=
    State.readBytes_mapHost g l k s s.base (x.toNat + 1)
  rw [execLoadRegs, execLoadRegs, hr]
  cases s.readBytes s.base (x.toNat + 1) with
  | error f => rfl
  | ok bs => exact congrArg Host.Outcome.next (State.setRegsFrom_mapHost g l k bs s.advance 0)

theorem settle_writeBytes_mapHost (s : State) (bs : List Byte) :
    settle (s.mapHost g l k) ((s.mapHost g l k).advance.writeBytes s.base bs) =
      (settle s (s.advance.writeBytes s.base bs)).mapHost g l k :=
  (congrArg (settle _) (State.writeBytes_mapHost g l k bs s.advance s.base)).trans
    (settle_mapHost g l k s _)

theorem execLdKey_mapHost (s : State) (x : Nibble) (hk : (s.mapHost g l k).key = s.key) :
    execLdKey x (s.mapHost g l k) = .next ((stateAfter s (execLdKey x s)).mapHost g l k) := by
  rw [execLdKey, execLdKey, hk]
  cases s.key <;> rfl

theorem keyPressed_mapHost (s : State) (x : Nibble) (hk : (s.mapHost g l k).key = s.key) :
    (s.mapHost g l k).keyPressed x = s.keyPressed x := by
  rw [State.keyPressed, State.keyPressed, hk]
  rfl

end Commute

/-! ## Runs that differ in what an instruction does not read -/

/-- The run of an instruction after a change of the host's fields ends as the run without it, changed
alike, if the change keeps the random byte where the instruction is RND, and the key where it is a key
instruction. -/
theorem exec_mapHost (i : Instr) (s : State) (g : Bool → Bool) (l : List StepInput → List StepInput)
    (k : Nat → Nat) (hr : (∀ x nn, i ≠ .rnd x nn) ∨ (s.mapHost g l k).rnd = s.rnd)
    (hk : i.isKeyOp = false ∨ (s.mapHost g l k).key = s.key) :
    exec i (s.mapHost g l k) = .next ((stateAfter s (exec i s)).mapHost g l k) := by
  cases i with
  | cls | jp | ldImm | addImm | ldReg | orReg | andReg | xorReg | addReg | subReg | shrReg | subnReg
  | shlReg | ldI | addI => rfl
  | ret => exact execRet_mapHost g l k s
  | call nnn => exact execCall_mapHost g l k s nnn
  | seImm | sneImm | seReg | sneReg =>
    exact congrArg Host.Outcome.next (State.advance_skipIf_mapHost g l k s _)
  | jpV0 nnn => exact execJpV0_mapHost g l k s nnn
  | drw x y n => exact execDrw_mapHost g l k s x y n
  | ldBcd | storeRegs => exact congrArg Host.Outcome.next (settle_writeBytes_mapHost g l k s _)
  | loadRegs x => exact execLoadRegs_mapHost g l k s x
  | rnd x nn =>
    rw [exec, exec, execRnd, execRnd, hr.resolve_left fun h => h x nn rfl]
    rfl
  | skp x =>
    rw [exec, execSkp, keyPressed_mapHost g l k s x (hk.resolve_left Bool.noConfusion)]
    exact congrArg Host.Outcome.next (State.advance_skipIf_mapHost g l k s _)
  | sknp x =>
    rw [exec, execSknp, keyPressed_mapHost g l k s x (hk.resolve_left Bool.noConfusion)]
    exact congrArg Host.Outcome.next (State.advance_skipIf_mapHost g l k s _)
  | ldKey x => exact execLdKey_mapHost g l k s x (hk.resolve_left Bool.noConfusion)

theorem exec_mapHost_next {i : Instr} {s t : State} (ht : exec i s = .next t) (g : Bool → Bool)
    (l : List StepInput → List StepInput) (k : Nat → Nat)
    (hr : (∀ x nn, i ≠ .rnd x nn) ∨ (s.mapHost g l k).rnd = s.rnd)
    (hk : i.isKeyOp = false ∨ (s.mapHost g l k).key = s.key) :
    exec i (s.mapHost g l k) = .next (t.mapHost g l k) := by
  rw [exec_mapHost i s g l k hr hk, ht]
  rfl

/-! ## The step, by its four ways -/

theorem step_of_idle (hi : s.idle = true) : step s = .next s.consumeInput :=
  if_pos hi

theorem step_of_fetchWord_error {f : Fault} (hi : s.idle = false) (hf : s.fetchWord = .error f) :
    step s = .next (s.takeFault f).consumeInput := by
  simp [step, hi, State.fetchInstr, hf]

theorem step_of_unrecognized {w : Word} {e : DecodeError} (hi : s.idle = false)
    (hf : s.fetchWord = .ok w) (hd : decodeWord s.params.keyOps w = .error e) :
    step s = .next s.noOp.consumeInput := by
  simp [step, hi, State.fetchInstr, hf, hd]

theorem step_of_decoded {w : Word} (hi : s.idle = false) (hf : s.fetchWord = .ok w)
    (hd : decodeWord s.params.keyOps w = .ok i) : step s = consumeOutcome (exec i s) := by
  simp [step, hi, State.fetchInstr, hf, hd]

/-- A STEP commutes with SET_STEP_MODE, whichever of its four ways it goes (10_state.md R31). -/
theorem step_setStepMode (h : step s = .next t) (bit : Bool) :
    step (setStepMode bit s) = .next (setStepMode bit t) := by
  obtain ⟨hi, hs⟩ | ⟨hi, f, hf, hs⟩ | ⟨hi, w, e, hf, hd, hs⟩ | ⟨hi, w, i, hf, hd, hs⟩ := step_cases s
  all_goals rw [hs] at h
  · cases h
    exact step_of_idle hi
  · cases h
    exact step_of_fetchWord_error (s := setStepMode bit s) hi hf
  · cases h
    exact step_of_unrecognized (s := setStepMode bit s) hi hf hd
  · obtain ⟨u, hu, -⟩ := exec_effect i s
    rw [hu] at h
    cases h
    have hrun : exec i (setStepMode bit s) = .next (setStepMode bit u) := by
      rw [setStepMode_eq_mapHost, setStepMode_eq_mapHost]
      exact exec_mapHost_next hu (fun _ => bit) id id (.inr rfl) (.inr rfl)
    rw [step_of_decoded (s := setStepMode bit s) hi hf hd, hrun]
    rfl

/-! ## The obligations -/

/-- Settles O50, from the registers each effect leaves alone. -/
theorem registerWriters : Obligations.RegisterWriters :=
  fun _ _ _ _ h hne => not_not.mp fun hj => hne ((ExecEffect.of_exec h).reg_eq hj)

/-- Settles O51, each clause from the effects that write its field. -/
theorem controlStateWriters : Obligations.ControlStateWriters := by
  intro i s t h
  have he := ExecEffect.of_exec h
  exact ⟨he.index_eq.resolve_left, he.stackSame.resolve_left, he.halted_eq.resolve_left,
    he.waiting_eq.resolve_left, he.mode_params_eq⟩

/-- Settles O52: the second run is the first with the inputs replaced, and the key is the same. -/
theorem randomByteReachesOnlyRnd : Obligations.RandomByteReachesOnlyRnd :=
  fun _ s _ _ r₂ key hi h =>
    exec_mapHost_next h id (fun _ => ⟨r₂, key⟩ :: s.inputs) id (.inl hi) (.inr rfl)

/-- Settles O53: the second run is the first with the inputs replaced, and the random byte is the
same. -/
theorem keyReachesOnlyKeyOps : Obligations.KeyReachesOnlyKeyOps :=
  fun _ s _ r _ k₂ hi h =>
    exec_mapHost_next h id (fun _ => ⟨r, k₂⟩ :: s.inputs) id (.inr rfl) (.inl hi)

/-- Settles O54: no way a step can go reads `step_mode`. -/
theorem stepModeChangesNoStep : Obligations.StepModeChangesNoStep :=
  fun _ _ bit h => step_setStepMode h bit

/-- Settles O40: memory lists nothing, and the vectors and the stack repeat zero. -/
theorem resetValues : Obligations.ResetValues := by
  intro p
  have hreg : ∀ x, (State.resetWith p).reg x = 0#8 := fun x => Vector.getElem_replicate x.isLt
  have hstack : ∀ n, (State.resetWith p).stackEntry n = 0#16 := fun n =>
    List.getD_eq_getElem?_getD.trans (List.getElem?_getD_replicate_default_eq _ p.stackDepth n)
  exact ⟨fun _ => rfl, hreg, rfl, rfl, rfl, List.length_replicate, hstack, Display.lit_dark,
    rfl, rfl, rfl, rfl, rfl⟩

/-- Settles O43: the old bit put back gives the state before. -/
theorem setStepModeWritesOneBit : Obligations.SetStepModeWritesOneBit :=
  fun _ s => ⟨rfl, s.stepMode, rfl⟩

end Sys2Proof.Machine
end

section
/-! Where memory changes, and what reads of it give after a store (20_memory.md R63, R70, R73); the
`pc_wrap` events of a STEP (R66, 40_control_flow.md R114). -/

namespace Sys2Proof.Machine

variable {i : Instr} {s t : State}

/-! ## Stores -/

/-- What memory reads after a transfer to it: the bytes written where they were written, as before
elsewhere (20_memory.md R69). -/
theorem State.byteAt_of_writeBytes {a : Nat} {bs : List Byte} (h : s.writeBytes a bs = .ok t)
    (k : Nat) :
    t.byteAt k = if hk : a ≤ k ∧ k - a < bs.length then bs[k - a]'hk.2 else s.byteAt k := by
  obtain ⟨hok, herr⟩ := State.writeBytes_spec bs s a
  by_cases hin : bs = [] ∨ a + bs.length ≤ 4096
  · obtain ⟨m, hm, hr, -⟩ := hok hin
    rw [hm] at h
    cases h
    exact hr k
  · rw [herr hin] at h
    cases h

/-- Memory is written by LD B and LD [I] only, and only where they store (20_memory.md R63). -/
theorem ExecEffect.byteAt_eq (he : ExecEffect i s t) (a : Nat) :
    t.byteAt a = s.byteAt a ∨
      (∃ x, i = .ldBcd x ∧ s.base ≤ a ∧ a ≤ s.base + 2) ∨
      ∃ x, i = .storeRegs x ∧ s.base ≤ a ∧ a ≤ s.base + x.toNat := by
  cases he with
  | store bs t hi ht =>
    have hread := State.byteAt_of_writeBytes ht a
    split at hread
    · next hk =>
      obtain ⟨hlo, hhi⟩ := hk
      obtain ⟨x, hx, rfl⟩ | ⟨x, hx, rfl⟩ := hi
      · have hlen : (decimalDigits (s.reg x)).length = 3 := rfl
        exact .inr (.inl ⟨x, hx, hlo, by omega⟩)
      · rw [State.regsThrough_length] at hhi
        exact .inr (.inr ⟨x, hx, hlo, by omega⟩)
    · exact .inl hread
  | fault | control | registers | clear | draw | index | jump | ret | call | waitKey | takeKey =>
    exact .inl rfl

/-- Settles O49: of the four ways a step can go, only a decoded store writes memory. -/
theorem onlyStoresChangeMemory : Obligations.OnlyStoresChangeMemory := by
  intro s t a h hne
  obtain ⟨-, hs⟩ | ⟨-, f, -, hs⟩ | ⟨-, w, e, -, -, hs⟩ | ⟨-, w, i, hf, hd, hs⟩ := step_cases s
  all_goals rw [hs] at h
  · cases h
    exact absurd rfl hne
  · cases h
    exact absurd rfl hne
  · cases h
    exact absurd rfl hne
  · obtain ⟨u, hu, he⟩ := exec_effect i s
    rw [hu] at h
    cases h
    exact ⟨w, i, hf, hd, (he.byteAt_eq a).resolve_left hne⟩

/-! ## A stored word is fetched -/

/-- LD [I], Vx whose last byte lies in memory runs to its end (42_index_memory.md R163). -/
theorem writeBytes_of_exec_storeRegs {x : Nibble} (hx : s.base + x.toNat ≤ 4095)
    (h : exec (.storeRegs x) s = .next t) :
    s.advance.writeBytes s.base (s.regsThrough x) = .ok t := by
  have hin : s.base + (s.regsThrough x).length ≤ 4096 := by
    rw [State.regsThrough_length]
    omega
  obtain ⟨m, hm, -, -⟩ := (State.writeBytes_spec (s.regsThrough x) s.advance s.base).1 (.inr hin)
  rw [exec, execStoreRegs, hm] at h
  cases h
  exact hm

/-- LD [I], Vx stores `V[j]` at `I + j` (42_index_memory.md R163). -/
theorem byteAt_of_exec_storeRegs {x j : Nibble} (hx : s.base + x.toNat ≤ 4095)
    (h : exec (.storeRegs x) s = .next t) (hj : j.toNat ≤ x.toNat) :
    t.byteAt (s.base + j.toNat) = s.reg j := by
  have hlt : j.toNat < (s.regsThrough x).length := by
    rw [State.regsThrough_length]
    omega
  rw [State.byteAt_of_writeBytes (writeBytes_of_exec_storeRegs hx h), dif_pos (by omega)]
  simp only [Nat.add_sub_cancel_left]
  exact State.regsThrough_getElem s x j hlt

theorem State.fetchWord_of_lt (h : s.pc.toNat < 4095) :
    s.fetchWord = .ok (wordOfBytes (s.byteAt s.pc.toNat) (s.byteAt (s.pc.toNat + 1))) := by
  obtain ⟨h1, -⟩ | ⟨-, hf⟩ | ⟨h1, -⟩ := s.fetchWord_cases
  · omega
  · exact hf
  · omega

/-- Settles O57: the next fetch reads the two bytes where `V[j]` and `V[k]` were stored. -/
theorem storedCodeIsFetched : Obligations.StoredCodeIsFetched := by
  intro x j k s t hx h hk hkx hat
  have hpc : t.pc.toNat = s.base + j.toNat := by
    obtain ⟨m, rfl, -⟩ := State.writeBytes_onlyMem (writeBytes_of_exec_storeRegs hx h)
    exact (pcPlus2_toNat s.pc).trans hat.symm
  have hhi : t.byteAt (s.base + j.toNat) = s.reg j := byteAt_of_exec_storeRegs hx h (by omega)
  have hlo : t.byteAt (s.base + k.toNat) = s.reg k := byteAt_of_exec_storeRegs hx h hkx
  rw [State.fetchWord_of_lt (by omega), hpc, Nat.add_assoc, ← hk, hhi, hlo]

/-! ## The wrap events -/

theorem pcWrap_mem_wrapEvents (a pcF pc : Word) :
    Diag.pcWrap a ∈ wrapEvents pcF pc ↔ a = pcF ∧ 4094 ≤ pc.toNat := by
  by_cases h : pc.toNat + 2 > 4095
  · have h' : 4094 ≤ pc.toNat := by omega
    simp [wrapEvents, h, h']
  · have h' : ¬ 4094 ≤ pc.toNat := by omega
    simp [wrapEvents, h, h']

/-- Executing the fetched word emits the wrap of a taken skip, and no other (40_control_flow.md
R114). -/
theorem pcWrap_mem_execEvents (s : State) (a w : Word) :
    Diag.pcWrap a ∈ execEvents s w ↔ (a = s.pc ∧ 4094 ≤ (pcPlus2 s.pc).toNat) ∧
      ∃ i, decodeWord s.params.keyOps w = .ok i ∧ skipTaken s i = true := by
  cases hd : decodeWord s.params.keyOps w with
  | error e => simp [execEvents, hd]
  | ok i =>
    have htrace : Diag.pcWrap a ∉ (if stepStatus s = .done then [Diag.trace s.pc w] else []) := by
      split <;> simp
    cases hs : skipTaken s i with
    | false => simp [execEvents, hd, hs, htrace]
    | true => simp [execEvents, hd, hs, htrace, pcWrap_mem_wrapEvents]

theorem stepEvents_of_fetchWord_error {f : Fault} (hf : s.fetchWord = .error f) :
    stepEvents s = [] := by
  simp [stepEvents, hf]

theorem stepEvents_of_fetchWord_ok {w : Word} (hi : s.idle = false) (hf : s.fetchWord = .ok w) :
    stepEvents s = wrapEvents s.pc s.pc ++ execEvents s w := by
  simp [stepEvents, hi, hf]

/-- The advance of a skip passes 4095 from 4092 and 4093 only (20_memory.md R66). -/
theorem le_pcPlus2_iff {pc : Word} (h : pc.toNat < 4095) :
    4094 ≤ (pcPlus2 pc).toNat ↔ pc.toNat = 4092 ∨ pc.toNat = 4093 := by
  rw [pcPlus2_toNat]
  omega

/-- Settles O39: without a fetch there is no event, and after one the fetch advance and a taken skip
emit their wraps. -/
theorem wrapIsDiagnosed : Obligations.WrapIsDiagnosed := by
  intro s a hi
  obtain ⟨hpc, hf⟩ | ⟨hpc, hf⟩ | ⟨hpc, hf⟩ := s.fetchWord_cases
  · rw [stepEvents_of_fetchWord_error hf]
    simp [hpc]
  · have hfetch : 4094 ≤ s.pc.toNat ↔ s.pc.toNat = 4094 := by omega
    rw [stepEvents_of_fetchWord_ok hi hf, List.mem_append, pcWrap_mem_wrapEvents,
      pcWrap_mem_execEvents, le_pcPlus2_iff hpc, hfetch, and_assoc, ← and_or_left]
    simp [hf]
  · have hne : s.pc.toNat ≠ 4094 := by omega
    rw [stepEvents_of_fetchWord_error hf]
    simp [hf, hne]

end Sys2Proof.Machine
end

section
/-! The decoder and the encoder as inverses (30_encoding.md R82 to R104): the decoder family by family,
a word as the fields of each format, and from these the round trip, the opcode map's rows and the
unrecognized space. -/

namespace Sys2Proof

variable {k : Bool} {w : Word} {i : Instr}

/-! ## The decoder, family by family -/

theorem decodeWord_of_family0 (h : fieldFamily w = 0x0#4) : decodeWord k w = decode0 w := by
  rw [decodeWord, h]; rfl

theorem decodeWord_of_family8 (h : fieldFamily w = 0x8#4) : decodeWord k w = decode8 w := by
  rw [decodeWord, h]; rfl

theorem decodeWord_of_familyE (h : fieldFamily w = 0xE#4) : decodeWord k w = decodeE k w := by
  rw [decodeWord, h]; rfl

theorem decodeWord_of_familyF (h : fieldFamily w = 0xF#4) : decodeWord k w = decodeF k w := by
  rw [decodeWord, h]; rfl

/-! ## A word as the fields of a format -/

theorem formatA_fields {f : Nibble} (hf : fieldFamily w = f) : formatA f (fieldNNN w) = w :=
  word_eq_of_fields ((fieldFamily_formatA f _).trans hf.symm) (fieldNNN_formatA f _)

theorem formatXYN_fields {f n : Nibble} (hf : fieldFamily w = f) (hn : fieldN w = n) :
    formatXYN f (fieldX w) (fieldY w) n = w :=
  word_eq_of_fields ((fieldFamily_formatXYN f _ _ n).trans hf.symm)
    (fieldNNN_eq_of_nibbles (fieldX_formatXYN f _ _ n) (fieldY_formatXYN f _ _ n)
      ((fieldN_formatXYN f _ _ n).trans hn.symm))

theorem formatXK_fields {f : Nibble} {nn : Byte} (hf : fieldFamily w = f) (hnn : fieldNN w = nn) :
    formatXK f (fieldX w) nn = w := by
  subst hf hnn
  apply BitVec.eq_of_getLsbD_eq
  intro j hj
  rw [getLsbD_formatXK]
  interval_cases j <;> simp [fieldFamily, fieldX, fieldNN]

theorem formatXYN_maskFFF0 (f x y n : Nibble) :
    formatXYN f x y n &&& 0xFFF0#16 = formatXYN f x y 0x0#4 := by
  apply BitVec.eq_of_getLsbD_eq
  intro j hj
  rw [BitVec.getLsbD_and, getLsbD_formatXYN, getLsbD_formatXYN]
  interval_cases j <;> simp

theorem and_not_zero (w : Word) : w &&& ~~~ 0#16 = w := BitVec.and_allOnes

/-- Without its ignored `x`, a word of family 0 is the encoding of its low byte (D8). -/
theorem formatXK_clearX {f : Nibble} {nn : Byte} (hf : fieldFamily w = f) (hnn : fieldNN w = nn) :
    formatXK f 0x0#4 nn = w &&& ~~~ 0x0F00#16 := by
  have hw := formatXK_maskF0FF f (fieldX w) nn
  rw [formatXK_fields hf hnn] at hw
  exact hw.symm

/-- Without its ignored `n`, a register skip's word is the encoding of its registers (D9). -/
theorem formatXYN_clearN {f : Nibble} (hf : fieldFamily w = f) :
    formatXYN f (fieldX w) (fieldY w) 0x0#4 = w &&& ~~~ 0x000F#16 := by
  have hw := formatXYN_maskFFF0 f (fieldX w) (fieldY w) (fieldN w)
  rw [formatXYN_fields hf rfl] at hw
  exact hw.symm

/-! ## A decoded word is its instruction's encoding -/

theorem encode_of_decode0 (hf : fieldFamily w = 0x0#4) (h : decode0 w = .ok i) :
    encode i = w &&& ~~~ ignoredBits i := by
  unfold decode0 at h
  split at h
  · next hnn => cases h; exact formatXK_clearX hf hnn
  · split at h
    · next hnn => cases h; exact formatXK_clearX hf hnn
    · cases h

theorem encode_of_decode8 (hf : fieldFamily w = 0x8#4) (h : decode8 w = .ok i) :
    encode i = w &&& ~~~ ignoredBits i := by
  unfold decode8 at h
  repeat' split at h
  all_goals cases h
  all_goals exact (formatXYN_fields hf (by assumption)).trans (and_not_zero w).symm

theorem encode_of_decodeE (hf : fieldFamily w = 0xE#4) (h : decodeE k w = .ok i) :
    encode i = w &&& ~~~ ignoredBits i := by
  unfold decodeE at h
  repeat' split at h
  · next hk => cases h; exact (formatXK_fields hf hk.2).trans (and_not_zero w).symm
  · next hk => cases h; exact (formatXK_fields hf hk.2).trans (and_not_zero w).symm
  · cases h

theorem encode_of_decodeF (hf : fieldFamily w = 0xF#4) (h : decodeF k w = .ok i) :
    encode i = w &&& ~~~ ignoredBits i := by
  unfold decodeF at h
  split at h
  · next hk => cases h; exact (formatXK_fields hf hk.2).trans (and_not_zero w).symm
  · repeat' split at h
    all_goals cases h
    all_goals exact (formatXK_fields hf (by assumption)).trans (and_not_zero w).symm

/-- The decoder, family by family: four families have a sub-selector, and every word of the others is
an instruction's (30_encoding.md R92, R93). -/
theorem decodeWord_cases (k : Bool) (w : Word) :
    (fieldFamily w = 0x0#4 ∧ decodeWord k w = decode0 w) ∨
      (fieldFamily w = 0x8#4 ∧ decodeWord k w = decode8 w) ∨
      (fieldFamily w = 0xE#4 ∧ decodeWord k w = decodeE k w) ∨
      (fieldFamily w = 0xF#4 ∧ decodeWord k w = decodeF k w) ∨
      (fieldFamily w ∉ [0x0#4, 0x8#4, 0xE#4, 0xF#4] ∧
        ∃ i, decodeWord k w = .ok i ∧ encode i = w &&& ~~~ ignoredBits i) := by
  by_cases h0 : fieldFamily w = 0x0#4
  · exact .inl ⟨h0, decodeWord_of_family0 h0⟩
  by_cases h8 : fieldFamily w = 0x8#4
  · exact .inr (.inl ⟨h8, decodeWord_of_family8 h8⟩)
  by_cases hE : fieldFamily w = 0xE#4
  · exact .inr (.inr (.inl ⟨hE, decodeWord_of_familyE hE⟩))
  by_cases hF : fieldFamily w = 0xF#4
  · exact .inr (.inr (.inr (.inl ⟨hF, decodeWord_of_familyF hF⟩)))
  refine .inr (.inr (.inr (.inr ⟨by simp [h0, h8, hE, hF], ?_⟩)))
  unfold decodeWord
  split
  case h_1 hf => exact absurd (BitVec.eq_of_toNat_eq hf) h0
  case h_9 hf => exact absurd (BitVec.eq_of_toNat_eq hf) h8
  case h_15 hf => exact absurd (BitVec.eq_of_toNat_eq hf) hE
  case h_16 =>
    have hlt := (fieldFamily w).isLt
    have h15 : (fieldFamily w).toNat = 15 := by
      simp only [imp_false] at *
      omega
    exact absurd (BitVec.eq_of_toNat_eq h15) hF
  case h_2 hf | h_3 hf | h_11 hf | h_12 hf =>
    exact ⟨_, rfl, (formatA_fields (BitVec.eq_of_toNat_eq hf)).trans (and_not_zero w).symm⟩
  case h_4 hf | h_5 hf | h_7 hf | h_8 hf | h_13 hf =>
    exact ⟨_, rfl, (formatXK_fields (BitVec.eq_of_toNat_eq hf) rfl).trans (and_not_zero w).symm⟩
  case h_6 hf | h_10 hf =>
    exact ⟨_, rfl, formatXYN_clearN (BitVec.eq_of_toNat_eq hf)⟩
  case h_14 hf =>
    exact ⟨_, rfl, (formatXYN_fields (BitVec.eq_of_toNat_eq hf) rfl).trans (and_not_zero w).symm⟩

/-- The decoder reads from a word the instruction whose encoding it is (30_encoding.md R104). -/
theorem encode_of_decodeWord (h : decodeWord k w = .ok i) : encode i = w &&& ~~~ ignoredBits i := by
  obtain ⟨hf, hd⟩ | ⟨hf, hd⟩ | ⟨hf, hd⟩ | ⟨hf, hd⟩ | ⟨-, j, hd, hj⟩ := decodeWord_cases k w
  all_goals rw [hd] at h
  · exact encode_of_decode0 hf h
  · exact encode_of_decode8 hf h
  · exact encode_of_decodeE hf h
  · exact encode_of_decodeF hf h
  · cases h
    exact hj

/-! ## The encoding decodes -/

/-- No field is lost between the encoder and the decoder (30_encoding.md R83, R100). -/
theorem decodeWord_encode (hw : i.wellFormed k = true) : decodeWord k (encode i) = .ok i := by
  cases i with
  | cls | ret => rfl
  | jp nnn | call nnn | ldI nnn | jpV0 nnn =>
    simp [encode, decodeWord, fieldFamily_formatA, fieldNNN_formatA]
  | seImm x nn | sneImm x nn | ldImm x nn | addImm x nn | rnd x nn =>
    simp [encode, decodeWord, fieldFamily_formatXK, fieldX_formatXK, fieldNN_formatXK]
  | seReg x y | sneReg x y =>
    simp [encode, decodeWord, fieldFamily_formatXYN, fieldX_formatXYN, fieldY_formatXYN]
  | drw x y n =>
    simp [encode, decodeWord, fieldFamily_formatXYN, fieldX_formatXYN, fieldY_formatXYN,
      fieldN_formatXYN]
  | ldReg x y | orReg x y | andReg x y | xorReg x y | addReg x y | subReg x y | shrReg x y
  | subnReg x y | shlReg x y =>
    rw [encode, decodeWord_of_family8 (fieldFamily_formatXYN ..)]
    simp [decode8, fieldX_formatXYN, fieldY_formatXYN, fieldN_formatXYN]
  | skp x | sknp x =>
    have hk : k = true := Instr.keyOps_of_wellFormed hw rfl
    rw [encode, decodeWord_of_familyE (fieldFamily_formatXK ..)]
    simp [decodeE, hk, fieldX_formatXK, fieldNN_formatXK]
  | ldKey x =>
    have hk : k = true := Instr.keyOps_of_wellFormed hw rfl
    rw [encode, decodeWord_of_familyF (fieldFamily_formatXK ..)]
    simp [decodeF, hk, fieldX_formatXK, fieldNN_formatXK]
  | addI x | ldBcd x | storeRegs x | loadRegs x =>
    rw [encode, decodeWord_of_familyF (fieldFamily_formatXK ..)]
    simp [decodeF, fieldX_formatXK, fieldNN_formatXK]

theorem decodeBytes_of_word {rest : List Byte} (h : decodeWord k w = .ok i) :
    decodeBytes k ([highByte w, lowByte w] ++ rest) = .ok (i, rest) := by
  simp [decodeBytes, wordOfBytes_high_low, h]

/-- Settles O27: the two bytes of the encoding are its word again. -/
theorem decodeInvertsEncode : Obligations.DecodeInvertsEncode :=
  fun _ _ _ hw => ⟨decodeWord_encode hw, decodeBytes_of_word (decodeWord_encode hw)⟩

/-! ## A word that is an encoding but for ignored bits decodes -/

/-- The ignored `n` cleared leaves family, `x` and `y` (D9). -/
theorem fields_of_clearN {f x y n : Nibble} (h : formatXYN f x y n = w &&& ~~~ 0x000F#16) :
    fieldFamily w = f ∧ fieldX w = x ∧ fieldY w = y := by
  rw [← formatXYN_clearN rfl] at h
  have hf := congrArg fieldFamily h
  have hx := congrArg fieldX h
  have hy := congrArg fieldY h
  simp only [fieldFamily_formatXYN, fieldX_formatXYN, fieldY_formatXYN] at hf hx hy
  exact ⟨hf.symm, hx.symm, hy.symm⟩

theorem decodeWord_of_encode_eq (hw : i.wellFormed k = true)
    (h : encode i = w &&& ~~~ ignoredBits i) : decodeWord k w = .ok i := by
  cases i with
  | cls | ret =>
    obtain ⟨hf, hnn⟩ := fields_of_maskF0FF h.symm
    rw [decodeWord_of_family0 hf, decode0, hnn]
    rfl
  | seReg x y | sneReg x y =>
    obtain ⟨hf, hx, hy⟩ := fields_of_clearN h
    rw [decodeWord, hf, hx, hy]
    rfl
  | _ =>
    rw [(and_not_zero w).symm.trans h.symm]
    exact decodeWord_encode hw

/-- Settles O28: the decoder keeps every bit it does not ignore, and reads nothing from the others. -/
theorem decodedWordIsTheEncoding : Obligations.DecodedWordIsTheEncoding :=
  fun _ _ _ => ⟨fun h => ⟨decodeWord_wellFormed h, encode_of_decodeWord h⟩,
    fun ⟨hw, h⟩ => decodeWord_of_encode_eq hw h⟩

/-! ## The rows of the opcode map -/

/-- The law of every instruction: its row selects its encoding, which sets no ignored bit. -/
theorem Laws.Row.statement (i : Instr) : Laws.Row.Statement i := by
  cases i with
  | cls => exact Laws.Row.cls
  | ret => exact Laws.Row.ret
  | jp nnn => exact Laws.Row.jp nnn
  | call nnn => exact Laws.Row.call nnn
  | seImm x nn => exact Laws.Row.seImm x nn
  | sneImm x nn => exact Laws.Row.sneImm x nn
  | seReg x y => exact Laws.Row.seReg x y
  | ldImm x nn => exact Laws.Row.ldImm x nn
  | addImm x nn => exact Laws.Row.addImm x nn
  | ldReg x y => exact Laws.Row.ldReg x y
  | orReg x y => exact Laws.Row.orReg x y
  | andReg x y => exact Laws.Row.andReg x y
  | xorReg x y => exact Laws.Row.xorReg x y
  | addReg x y => exact Laws.Row.addReg x y
  | subReg x y => exact Laws.Row.subReg x y
  | shrReg x y => exact Laws.Row.shrReg x y
  | subnReg x y => exact Laws.Row.subnReg x y
  | shlReg x y => exact Laws.Row.shlReg x y
  | sneReg x y => exact Laws.Row.sneReg x y
  | ldI nnn => exact Laws.Row.ldI nnn
  | jpV0 nnn => exact Laws.Row.jpV0 nnn
  | rnd x nn => exact Laws.Row.rnd x nn
  | drw x y n => exact Laws.Row.drw x y n
  | skp x => exact Laws.Row.skp x
  | sknp x => exact Laws.Row.sknp x
  | ldKey x => exact Laws.Row.ldKey x
  | addI x => exact Laws.Row.addI x
  | ldBcd x => exact Laws.Row.ldBcd x
  | storeRegs x => exact Laws.Row.storeRegs x
  | loadRegs x => exact Laws.Row.loadRegs x

/-- A row's mask looks at no ignored bit (30_encoding.md R100, D8, D9). -/
theorem opcodeRow_mask_clear (i : Instr) :
    (opcodeRow i).mask &&& ~~~ ignoredBits i = (opcodeRow i).mask := by
  cases i with
  | cls | ret => decide
  | seReg x y | sneReg x y => exact (by decide : 0xF000#16 &&& ~~~ 0x000F#16 = 0xF000#16)
  | _ => exact and_not_zero _

theorem OpcodeRow.selects_iff {r : OpcodeRow} : r.selects w = true ↔ w &&& r.mask = r.pattern :=
  beq_iff_eq

/-- A decoded word is selected by its instruction's row (30_encoding.md R100). -/
theorem selects_of_decodeWord (h : decodeWord k w = .ok i) : (opcodeRow i).selects w = true := by
  obtain ⟨hsel, -⟩ := Laws.Row.statement i
  rw [OpcodeRow.selects_iff] at hsel ⊢
  calc w &&& (opcodeRow i).mask
      = w &&& ~~~ ignoredBits i &&& (opcodeRow i).mask := by
        rw [BitVec.and_assoc, BitVec.and_comm (~~~ _), opcodeRow_mask_clear]
    _ = (opcodeRow i).pattern := by rw [← encode_of_decodeWord h, hsel]

/-- Two rows of the map differ in a bit that both look at (30_encoding.md R93). -/
theorem eq_of_pattern_and_mask :
    ∀ p ∈ opcodeMap, ∀ q ∈ opcodeMap, p.pattern &&& q.mask = q.pattern &&& p.mask → p = q := by
  decide

/-- Two rows that select one word agree where both look. -/
theorem pattern_and_mask_of_selects {p q : OpcodeRow} (hp : p.selects w = true)
    (hq : q.selects w = true) : p.pattern &&& q.mask = q.pattern &&& p.mask := by
  rw [OpcodeRow.selects_iff] at hp hq
  rw [← hp, ← hq, BitVec.and_assoc, BitVec.and_assoc, BitVec.and_comm p.mask]

/-- Settles O29: a decoded word has its encoding's bits under the row's mask, and two rows that select
one word are not told apart by any bit, hence one row. -/
theorem opcodeRowsSelectDisjointWords : Obligations.OpcodeRowsSelectDisjointWords :=
  ⟨fun _ _ _ h => selects_of_decodeWord h, fun _ p q hp hq hpw hqw =>
    eq_of_pattern_and_mask p hp q hq (pattern_and_mask_of_selects hpw hqw)⟩

/-! ## The unrecognized space -/

theorem decode0_eq_error_iff : (∃ e, decode0 w = .error e) ↔
    fieldNN w ≠ 0xE0#8 ∧ fieldNN w ≠ 0xEE#8 := by
  unfold decode0
  iterate 2
    split
    · next hnn => simp [hnn]
  next h1 h2 => exact iff_of_true ⟨_, rfl⟩ ⟨h1, h2⟩

theorem decode8_eq_error_iff : (∃ e, decode8 w = .error e) ↔
    fieldN w ∈ [0x8#4, 0x9#4, 0xA#4, 0xB#4, 0xC#4, 0xD#4, 0xF#4] := by
  unfold decode8
  iterate 9
    split
    · next hn => simp [hn]
  refine iff_of_true ⟨_, rfl⟩ ?_
  simp only [List.mem_cons, List.not_mem_nil, or_false]
  bv_omega

theorem decodeE_eq_error_iff : (∃ e, decodeE k w = .error e) ↔
    k = false ∨ (fieldNN w ≠ 0x9E#8 ∧ fieldNN w ≠ 0xA1#8) := by
  unfold decodeE
  iterate 2
    split
    · next h => simp [h]
  next h1 h2 =>
    refine iff_of_true ⟨_, rfl⟩ ?_
    cases k with
    | false => exact .inl rfl
    | true => exact .inr ⟨fun h => h1 ⟨rfl, h⟩, fun h => h2 ⟨rfl, h⟩⟩

theorem decodeF_eq_error_iff : (∃ e, decodeF k w = .error e) ↔
    fieldNN w ∉ [0x1E#8, 0x33#8, 0x55#8, 0x65#8] ∧ ¬ (k = true ∧ fieldNN w = 0x0A#8) := by
  unfold decodeF
  iterate 5
    split
    · next h => simp [h]
  next hk h1 h2 h3 h4 => exact iff_of_true ⟨_, rfl⟩ ⟨by simp [h1, h2, h3, h4], hk⟩

/-- Settles O30, family by family. -/
theorem unrecognizedSpaceExact : Obligations.UnrecognizedSpaceExact := by
  intro k w
  obtain ⟨hf, hd⟩ | ⟨hf, hd⟩ | ⟨hf, hd⟩ | ⟨hf, hd⟩ | ⟨hf, i, hd, -⟩ := decodeWord_cases k w
  all_goals rw [hd]
  · simp [hf, decode0_eq_error_iff]
  · simp [hf, decode8_eq_error_iff]
  · simp [hf, decodeE_eq_error_iff]
  · simp [hf, decodeF_eq_error_iff]
  · obtain ⟨h0, h8, hE, hF⟩ : fieldFamily w ≠ 0x0#4 ∧ fieldFamily w ≠ 0x8#4 ∧
        fieldFamily w ≠ 0xE#4 ∧ fieldFamily w ≠ 0xF#4 := by simpa using hf
    simp [h0, h8, hE, hF]

/-! ## The spec's example words -/

/-- Settles O31: the decoder evaluated on each word. -/
theorem specWordsDecode : Obligations.SpecWordsDecode :=
  ⟨rfl, rfl, rfl, rfl, rfl, rfl, rfl, rfl⟩

end Sys2Proof
end

section
/-! The step around an instruction (30_encoding.md R90 to R101, 60_exceptions.md R215): its status and
events in each of its ways, and the statements about idle steps, the fetch and unrecognized words. -/

namespace Sys2Proof.Machine

variable {s t : State}

/-- The status of a STEP that runs: by R215 `fault` when it raised one, else `done`. -/
theorem stepStatus_of_step (hi : s.idle = false) (h : step s = .next t) :
    stepStatus s = if t.faultCode ≠ 0#3 then .fault else .done := by
  obtain ⟨hf, hh⟩ := s.idle_eq_false_iff.mp hi
  have hafter : s.afterStep = t := by rw [State.afterStep, h]; rfl
  simp [stepStatus, hf, hh, hafter]

theorem stepStatus_of_faultCode (hf : s.faultCode ≠ 0#3) : stepStatus s = .idleFaulted :=
  if_pos hf

theorem stepStatus_of_halted (hf : s.faultCode = 0#3) (hh : s.halted = true) :
    stepStatus s = .idleHalted := by
  simp [stepStatus, hf, hh]

theorem stepEvents_of_idle (hi : s.idle = true) : stepEvents s = [] :=
  if_pos hi

theorem unimplemented_mem_stepEvents {w : Word} {e : DecodeError} (hi : s.idle = false)
    (hf : s.fetchWord = .ok w) (hd : decodeWord s.params.keyOps w = .error e) :
    Diag.unimplemented s.pc w ∈ stepEvents s := by
  rw [stepEvents_of_fetchWord_ok hi hf]
  simp [execEvents, hd]

/-- Settles O32: below 4095 the fetch reads the two bytes at `pc`. -/
theorem stepRunsDecodedInstruction : Obligations.StepRunsDecodedInstruction :=
  fun s _ hf hh hpc hd =>
    step_of_decoded (s.idle_eq_false_iff.mpr ⟨hf, hh⟩) (State.fetchWord_of_lt (by omega)) hd

/-- Settles O33: the step is the fetch advance, which writes no fault record. -/
theorem unrecognizedWordIsNoOp : Obligations.UnrecognizedWordIsNoOp := by
  intro s w e hi hf hd
  have hstep := step_of_unrecognized hi hf hd
  have hnofault : s.noOp.consumeInput.faultCode = 0#3 := (s.idle_eq_false_iff.mp hi).1
  refine ⟨_, hstep, ?_, pcPlus2_toNat s.pc, ?_, unimplemented_mem_stepEvents hi hf hd⟩
  · exact ⟨fun _ => rfl, rfl, fun _ => rfl, ⟨rfl, rfl⟩, fun _ _ => rfl, ⟨rfl, rfl⟩,
      rfl, rfl, rfl, rfl, rfl, rfl⟩
  · rw [stepStatus_of_step hi hstep, if_neg (not_not.mpr hnofault)]

/-- Settles O36: by what the fetch can do at, below and above 4095. -/
theorem fetchAtTopOfMemory : Obligations.FetchAtTopOfMemory := by
  intro s hi
  obtain ⟨hpc, hf⟩ | ⟨hpc, hf⟩ | ⟨hpc, -⟩ := s.fetchWord_cases
  · have hstep := step_of_fetchWord_error hi hf
    have hst : stepStatus s = .fault := stepStatus_of_step hi hstep
    exact ⟨fun _ => ⟨hst, _, hstep, rfl, rfl, rfl⟩, fun _ => by omega⟩
  · refine ⟨fun _ => by omega, fun h => ?_⟩
    rw [h] at hf
    exact ⟨hf, BitVec.eq_of_toNat_eq ((pcPlus2_toNat s.pc).trans (by rw [h]; rfl))⟩
  · exact ⟨fun _ => by omega, fun _ => by omega⟩

/-- Settles O34: either stop state makes the block idle. -/
theorem idleStepChangesNothing : Obligations.IdleStepChangesNothing := by
  intro s
  constructor
  · intro hf
    have hi : s.idle = true := by simp [State.idle, hf]
    exact ⟨step_of_idle hi, stepStatus_of_faultCode hf, stepEvents_of_idle hi⟩
  · intro hf hh
    have hi : s.idle = true := by simp [State.idle, hh]
    exact ⟨step_of_idle hi, stepStatus_of_halted hf hh, stepEvents_of_idle hi⟩

end Sys2Proof.Machine
end

section
/-! Control transfer (40_control_flow.md): the rows of the opcode map that the family alone selects, what
RET, CALL and JP V0 answer on each of their paths, and what a skip leaves. -/

namespace Sys2Proof.Machine

variable {s : State}

/-! ## Rows, faults and frames -/

/-- A row whose mask is 0xF000 selects its family's words (30_encoding.md R93, R100). -/
theorem rowDecodes_of_family {p : Word} {instrOf : Word → Instr}
    (h : ∀ k w, fieldFamily w = fieldFamily p → decodeWord k w = .ok (instrOf w)) :
    RowDecodes p 0xF000#16 instrOf :=
  fun k w hw => h k w (fieldFamily_of_maskF000 hw)

theorem faultTaken_takeFault (s : State) (f : Fault) : FaultTaken f.code s (s.takeFault f) :=
  ⟨rfl, rfl, rfl⟩

theorem onlyPcChanged_setPc (s : State) (a : Word) : OnlyPcChanged s (s.setPc a) :=
  ⟨fun _ => rfl, rfl, fun _ => rfl, ⟨rfl, rfl⟩, fun _ _ => rfl, ⟨rfl, rfl⟩, rfl, rfl, rfl, rfl, rfl, rfl⟩

/-- The frame of RET and CALL, which write the stack, its pointer and `pc`. -/
theorem frame_of_stackAndPc {t : State} {stack : List Word} {sp : Nat} {a : Word}
    (ht : t = { s with stack := stack, sp := sp, pc := a }) :
    RegsSame s t ∧ t.i = s.i ∧ MemSame s t ∧ DispSame s t ∧ ControlSame s t ∧ HostSame s t := by
  subst ht
  exact ⟨fun _ => rfl, rfl, fun _ => rfl, fun _ _ => rfl, ⟨rfl, rfl⟩, rfl, rfl, rfl, rfl, rfl, rfl⟩

/-! ## RET and CALL -/

theorem exec_ret_of_pos (h : 0 < s.sp) :
    exec .ret s = .next { s with sp := s.sp - 1, pc := s.stackEntry (s.sp - 1) } := by
  obtain ⟨h0, -⟩ | ⟨-, hp⟩ := s.advance.pop_cases
  · exact absurd h0 h.ne'
  · rw [exec, execRet, hp]; rfl

theorem exec_ret_of_empty (h : s.sp = 0) : exec .ret s = .next (s.takeFault .emptyStackReturn) := by
  obtain ⟨-, hp⟩ | ⟨hpos, -⟩ := s.advance.pop_cases
  · rw [exec, execRet, hp]; rfl
  · exact absurd h hpos.ne'

theorem exec_call_of_lt (nnn : Addr) (h : s.sp < s.params.stackDepth) :
    exec (.call nnn) s = .next { s with
      stack := s.stack.set s.sp (pcPlus2 s.pc), sp := s.sp + 1, pc := zextAddr nnn } := by
  obtain ⟨hle, -⟩ | ⟨-, hp⟩ := s.advance.push_cases s.advance.pc
  · exact absurd h hle.not_gt
  · rw [exec, execCall, hp]; rfl

theorem exec_call_of_full (nnn : Addr) (h : s.params.stackDepth ≤ s.sp) :
    exec (.call nnn) s = .next (s.takeFault .stackOverflow) := by
  obtain ⟨-, hp⟩ | ⟨hlt, -⟩ := s.advance.push_cases s.advance.pc
  · rw [exec, execCall, hp]; rfl
  · exact absurd h hlt.not_ge

/-- The entry that a CALL writes, where the stack holds it (10_state.md R28). -/
theorem State.stackEntry_of_set_self {t : State} {n : Nat} {a : Word}
    (ht : t.stack = s.stack.set n a) (h : n < s.stack.length) : t.stackEntry n = a := by
  simp [State.stackEntry, ht, h]

/-- A CALL leaves the other entries alone (10_state.md R28). -/
theorem State.stackEntry_of_set_ne {t : State} {n k : Nat} {a : Word}
    (ht : t.stack = s.stack.set n a) (h : k ≠ n) : t.stackEntry k = s.stackEntry k := by
  simp [State.stackEntry, ht, h.symm]

/-- Settles O1: the two ways `pop` can go. -/
theorem retPopsReturnAddress : Obligations.RetPopsReturnAddress := by
  refine ⟨fun k w hw => ?_, fun s => ⟨fun h => ?_, fun h => ?_⟩⟩
  · obtain ⟨hf, hnn⟩ := fields_of_maskF0FF hw
    rw [decodeWord_of_family0 hf, decode0, hnn]
    rfl
  · exact ⟨_, exec_ret_of_pos h, rfl, rfl, rfl, fun hinv => hinv.stackEntry_le _,
      frame_of_stackAndPc rfl⟩
  · exact ⟨_, exec_ret_of_empty h, faultTaken_takeFault s .emptyStackReturn⟩

/-- Settles O3: the two ways `push` can go, and what the stack then reads. -/
theorem callPushesReturnAddress : Obligations.CallPushesReturnAddress := by
  refine ⟨rowDecodes_of_family fun k w hf => by rw [decodeWord, hf]; rfl,
    fun nnn s => ⟨fun h => ?_, fun h => ?_⟩⟩
  · refine ⟨_, exec_call_of_lt nnn h, zextAddr_toNat nnn, rfl, fun hlen => ?_,
      fun _ hk => State.stackEntry_of_set_ne rfl hk, List.length_set, frame_of_stackAndPc rfl⟩
    rw [State.stackEntry_of_set_self rfl hlen, pcPlus2_toNat]
  · exact ⟨_, exec_call_of_full nnn h.ge, faultTaken_takeFault s .stackOverflow⟩

/-- Settles O55: RET pops the entry that CALL wrote. -/
theorem callThenRetReturns : Obligations.CallThenRetReturns := by
  intro nnn s t u hlen hsp hcall ⟨husp, hustack⟩
  rw [exec_call_of_lt nnn hsp] at hcall
  cases hcall
  have hpos : 0 < u.sp := by rw [husp]; exact Nat.succ_pos _
  have hpred : u.sp - 1 = s.sp := by rw [husp]; exact Nat.add_sub_cancel ..
  refine ⟨_, exec_ret_of_pos hpos, ?_, hpred⟩
  rw [hpred, State.stackEntry_of_set_self hustack (hlen ▸ hsp), pcPlus2_toNat]

/-! ## Jumps -/

/-- Settles O2: the jump writes `pc` and, where it halts the block, `halted`. -/
theorem jpJumpsAndHaltsOnItself : Obligations.JpJumpsAndHaltsOnItself := by
  refine ⟨rowDecodes_of_family fun k w hf => by rw [decodeWord, hf]; rfl, fun nnn s =>
    ⟨_, rfl, zextAddr_toNat nnn, fun h => ?_, fun h => ?_, fun _ => rfl, rfl, fun _ => rfl, ⟨rfl, rfl⟩,
      fun _ _ => rfl, rfl, rfl, rfl, rfl, rfl, rfl, rfl⟩⟩
  · have hhalts : s.selfJumpHalts nnn = true := (s.selfJumpHalts_iff nnn).mpr h.symm
    simp [hhalts]
  · have hstays : s.selfJumpHalts nnn = false :=
      Bool.eq_false_iff.mpr fun hh => h ((s.selfJumpHalts_iff nnn).mp hh).symm
    simp [hstays]

theorem exec_jpV0_of_le {nnn : Addr} (h : s.jumpTarget nnn ≤ 4095) :
    exec (.jpV0 nnn) s = .next (s.setPc (BitVec.ofNat 16 (s.jumpTarget nnn))) := by
  rw [exec, execJpV0, if_neg h.not_gt]; rfl

theorem exec_jpV0_of_gt {nnn : Addr} (h : 4095 < s.jumpTarget nnn) :
    exec (.jpV0 nnn) s = .next (s.takeFault .pcOutOfRange) := by
  rw [exec, execJpV0, if_pos h]; rfl

/-- Settles O6: a target of at most 4095 is a 16-bit word as it stands. -/
theorem jpV0JumpsOrFaults : Obligations.JpV0JumpsOrFaults := by
  refine ⟨rowDecodes_of_family fun k w hf => by rw [decodeWord, hf]; rfl,
    fun nnn s => ⟨fun h => ?_, fun h => ?_⟩⟩
  · refine ⟨_, exec_jpV0_of_le h, ?_, onlyPcChanged_setPc s _⟩
    exact Nat.mod_eq_of_lt (Nat.lt_of_le_of_lt h (by decide))
  · exact ⟨_, exec_jpV0_of_gt h, faultTaken_takeFault s .pcOutOfRange⟩

/-! ## Skips -/

/-- What a skip on a condition leaves, given when the condition holds and when it fails
(40_control_flow.md R114). -/
theorem exists_next_of_skipIf {i : Instr} {c : Bool} {P Q : Prop}
    (h : exec i s = .next (s.advance.skipIf c)) (hskip : P → c = true) (hstay : Q → c = false) :
    ∃ t, exec i s = .next t ∧ (P → PcSkipped s t) ∧ (Q → PcAdvanced s t) ∧ OnlyPcChanged s t := by
  refine ⟨_, h, fun hP => ?_, fun hQ => ?_, ?_⟩
  · rw [hskip hP]
    exact pcPlus2_pcPlus2_toNat s.pc
  · rw [hstay hQ]
    exact pcPlus2_toNat s.pc
  · cases c with
    | false => exact onlyPcChanged_setPc s _
    | true => exact onlyPcChanged_setPc s _

/-- Settles O4: each skip by its comparison with the immediate. -/
theorem immediateSkips : Obligations.ImmediateSkips :=
  ⟨rowDecodes_of_family fun k w hf => by rw [decodeWord, hf]; rfl,
    rowDecodes_of_family fun k w hf => by rw [decodeWord, hf]; rfl, fun _ _ _ =>
    ⟨exists_next_of_skipIf rfl beq_iff_eq.mpr beq_eq_false_iff_ne.mpr,
      exists_next_of_skipIf rfl bne_iff_ne.mpr bne_eq_false_iff_eq.mpr⟩⟩

/-- Settles O5: each skip by its comparison of the registers. -/
theorem registerSkips : Obligations.RegisterSkips :=
  ⟨rowDecodes_of_family fun k w hf => by rw [decodeWord, hf]; rfl,
    rowDecodes_of_family fun k w hf => by rw [decodeWord, hf]; rfl, fun _ _ _ =>
    ⟨exists_next_of_skipIf rfl beq_iff_eq.mpr beq_eq_false_iff_ne.mpr,
      exists_next_of_skipIf rfl bne_iff_ne.mpr bne_eq_false_iff_eq.mpr⟩⟩

end Sys2Proof.Machine
end

section
/-! Registers and arithmetic (41_alu.md): the rows of family 8, the frames of an instruction that writes
one register and of one that writes a result and VF, the flags as the spec's conditions, and from these
each instruction. -/

namespace Sys2Proof.Machine

/-! ## Rows and frames -/

/-- A row of family 8 selects the words of its `n` (30_encoding.md R93, R100). -/
theorem rowDecodes_of_family8 {p : Word} {instrOf : Word → Instr} (hp : fieldFamily p = 0x8#4)
    (h : ∀ w, fieldN w = fieldN p → decode8 w = .ok (instrOf w)) : RowDecodes p 0xF00F#16 instrOf := by
  intro k w hw
  obtain ⟨hf, hn⟩ := fields_of_maskF00F hw
  exact (decodeWord_of_family8 (hf.trans hp)).trans (h w hn)

/-- With the fetch advance and new registers, the frame is what the registers outside the set read. -/
theorem onlyRegsChanged_advance {s : State} {v : Vector Byte 16} {written : Nibble → Prop}
    (h : RegsSameOutside written s { s.advance with v := v }) :
    OnlyRegsChanged written s { s.advance with v := v } :=
  ⟨h, rfl, fun _ => rfl, ⟨rfl, rfl⟩, fun _ _ => rfl, ⟨rfl, rfl⟩, ⟨rfl, rfl, rfl, rfl, rfl, rfl⟩,
    pcPlus2_toNat s.pc⟩

theorem State.reg_setReg_self (s : State) (x : Nibble) (b : Byte) : (s.setReg x b).reg x = b :=
  (State.reg_setReg s x x b).trans (if_pos rfl)

theorem onlyRegsChanged_setReg (s : State) (x : Nibble) (b : Byte) :
    OnlyRegsChanged (fun j => j = x) s (s.advance.setReg x b) :=
  onlyRegsChanged_advance fun j hj => (State.reg_setReg s.advance x j b).trans (if_neg hj)

theorem onlyRegsChanged_setResultFlag (s : State) (x : Nibble) (r f : Byte) :
    OnlyRegsChanged (fun j => j = x ∨ j = 0xF#4) s (s.advance.setResultFlag x r f) := by
  refine onlyRegsChanged_advance fun j hj => ?_
  obtain ⟨hjx, hjf⟩ := not_or.mp hj
  exact (State.reg_setResultFlag s.advance x j r f).trans ((if_neg hjf).trans (if_neg hjx))

/-- An instruction that writes a result and then VF: VF ends holding the flag, also with `x = 0xF`
(41_alu.md R133). -/
theorem exists_next_of_setResultFlag {i : Instr} {s : State} {x : Nibble} {r f b : Byte} {n : Nat}
    (h : exec i s = .next (s.advance.setResultFlag x r f)) (hr : r.toNat = n) (hf : f = b) :
    ∃ t, exec i s = .next t ∧ (x ≠ 0xF#4 → (t.reg x).toNat = n) ∧ t.reg 0xF#4 = b ∧
      OnlyRegsChanged (fun j => j = x ∨ j = 0xF#4) s t := by
  refine ⟨_, h, fun hx => ?_, ?_, onlyRegsChanged_setResultFlag s x r f⟩
  · rw [State.reg_setResultFlag, if_neg hx, if_pos rfl, hr]
  · rw [State.reg_setResultFlag, if_pos rfl, hf]

/-! ## Flags and shifts -/

theorem flagByte_decide (c : Prop) [Decidable c] :
    flagByte (decide c) = if c then 1#8 else 0#8 := by
  simp only [flagByte, decide_eq_true_eq]

theorem shiftRightFlag_eq (b : Byte) :
    shiftRightFlag b = if b.toNat % 2 = 1 then 1#8 else 0#8 := by
  have hbit : b.getLsbD 0 = decide (b.toNat % 2 = 1) := Nat.testBit_zero ..
  rw [shiftRightFlag, hbit, flagByte_decide]

theorem shiftLeftFlag_eq (b : Byte) : shiftLeftFlag b = if b.toNat ≥ 128 then 1#8 else 0#8 := by
  have hbit : b.getLsbD 7 = decide (b.toNat ≥ 128) := BitVec.msb_eq_decide b
  rw [shiftLeftFlag, hbit, flagByte_decide]

theorem shiftRightResult_toNat (b : Byte) : (shiftRightResult b).toNat = b.toNat / 2 := by
  rw [shiftRightResult, BitVec.toNat_ushiftRight, Nat.shiftRight_one]

theorem shiftLeftResult_toNat (b : Byte) : (shiftLeftResult b).toNat = b.toNat * 2 % 256 := by
  rw [shiftLeftResult, BitVec.toNat_shiftLeft, Nat.shiftLeft_eq]

/-! ## Instructions that write one register -/

/-- Settles O7: the byte written is the immediate. -/
theorem ldImmLoads : Obligations.LdImmLoads :=
  ⟨rowDecodes_of_family fun k w hf => by rw [decodeWord, hf]; rfl, fun x nn s =>
    ⟨_, rfl, State.reg_setReg_self s.advance x nn, onlyRegsChanged_setReg s x nn⟩⟩

/-- Settles O8: the byte written is the sum modulo 256, and the frame keeps VF where it is not `V[x]`. -/
theorem addImmWraps : Obligations.AddImmWraps := by
  refine ⟨rowDecodes_of_family fun k w hf => by rw [decodeWord, hf]; rfl, fun x nn s =>
    ⟨_, rfl, ?_, onlyRegsChanged_setReg s x _⟩⟩
  rw [State.reg_setReg_self, sumResult_toNat]

/-- Settles O9: the byte written is read before the write, so `x = y` needs no case. -/
theorem ldRegCopies : Obligations.LdRegCopies :=
  ⟨rowDecodes_of_family8 rfl fun w hn => by rw [decode8, hn]; rfl, fun x y s =>
    ⟨_, rfl, State.reg_setReg_self s.advance x (s.reg y), onlyRegsChanged_setReg s x _⟩⟩

/-- Settles O10: each bit of the byte written is that operation of the operands' bits. -/
theorem logicOpsBitwise : Obligations.LogicOpsBitwise := by
  refine ⟨rowDecodes_of_family8 rfl fun w hn => by rw [decode8, hn]; rfl,
    rowDecodes_of_family8 rfl fun w hn => by rw [decode8, hn]; rfl,
    rowDecodes_of_family8 rfl fun w hn => by rw [decode8, hn]; rfl, fun x y s =>
    ⟨⟨_, rfl, onlyRegsChanged_setReg s x _, fun k _ => ?_⟩,
      ⟨_, rfl, onlyRegsChanged_setReg s x _, fun k _ => ?_⟩,
      ⟨_, rfl, onlyRegsChanged_setReg s x _, fun k _ => ?_⟩⟩⟩
  · rw [State.reg_setReg_self, BitVec.getLsbD_or]
  · rw [State.reg_setReg_self, BitVec.getLsbD_and]
  · rw [State.reg_setReg_self, BitVec.getLsbD_xor]

/-- Settles O16: the random byte is the one at the head of the inputs. -/
theorem rndMasksInput : Obligations.RndMasksInput :=
  ⟨rowDecodes_of_family fun k w hf => by rw [decodeWord, hf]; rfl, fun x nn r key s =>
    ⟨_, rfl, State.reg_setReg_self (s.withInput ⟨r, key⟩).advance x (r &&& nn),
      onlyRegsChanged_setReg (s.withInput ⟨r, key⟩) x _⟩⟩

/-! ## Instructions that write a result and VF -/

/-- Settles O11: the flag is the carry of the operands as they were, also where one of them is VF. -/
theorem addRegCarries : Obligations.AddRegCarries :=
  ⟨rowDecodes_of_family8 rfl fun w hn => by rw [decode8, hn]; rfl, fun _ _ _ =>
    exists_next_of_setResultFlag rfl (sumResult_toNat _ _) (flagByte_decide _)⟩

/-- Settles O12: the minuend is `V[x]`. -/
theorem subRegBorrows : Obligations.SubRegBorrows :=
  ⟨rowDecodes_of_family8 rfl fun w hn => by rw [decode8, hn]; rfl, fun _ _ _ =>
    exists_next_of_setResultFlag rfl (differenceResult_toNat _ _) (flagByte_decide _)⟩

/-- Settles O13: the shift halves `V[y]`, and the bit shifted out is its remainder. -/
theorem shrShiftsVy : Obligations.ShrShiftsVy :=
  ⟨rowDecodes_of_family8 rfl fun w hn => by rw [decode8, hn]; rfl, fun _ _ _ =>
    exists_next_of_setResultFlag rfl (shiftRightResult_toNat _) (shiftRightFlag_eq _)⟩

/-- Settles O14: the minuend is `V[y]`. -/
theorem subnRegBorrows : Obligations.SubnRegBorrows :=
  ⟨rowDecodes_of_family8 rfl fun w hn => by rw [decode8, hn]; rfl, fun _ _ _ =>
    exists_next_of_setResultFlag rfl (differenceResult_toNat _ _) (flagByte_decide _)⟩

/-- Settles O15: the shift doubles `V[y]`, and the bit shifted out is its sign bit. -/
theorem shlShiftsVy : Obligations.ShlShiftsVy :=
  ⟨rowDecodes_of_family8 rfl fun w hn => by rw [decode8, hn]; rfl, fun _ _ _ =>
    exists_next_of_setResultFlag rfl (shiftLeftResult_toNat _) (shiftLeftFlag_eq _)⟩

end Sys2Proof.Machine
end

section
/-! Index register and memory (42_index_memory.md): the rows of family F, the frame of an instruction that
writes `I`, what a transfer to memory and one from it leave, and from these each instruction. -/

namespace Sys2Proof.Machine

/-! ## Rows, and instructions that write `I` -/

/-- `KEY_OPS` gates no word of family F but those of LD Vx, K (44_input.md R200). -/
theorem decodeF_eq_of_ne {k : Bool} {w : Word} (h : fieldNN w ≠ 0x0A#8) :
    decodeF k w = decodeF false w := by
  simp [decodeF, h]

/-- A row of family F other than that of LD Vx, K selects the words of its `nn`, whatever `KEY_OPS` is
(30_encoding.md R93, R100). -/
theorem rowDecodes_of_familyF {p : Word} {instrOf : Word → Instr} (hp : fieldFamily p = 0xF#4)
    (hkey : fieldNN p ≠ 0x0A#8)
    (h : ∀ w, fieldNN w = fieldNN p → decodeF false w = .ok (instrOf w)) :
    RowDecodes p 0xF0FF#16 instrOf := by
  intro k w hw
  obtain ⟨hf, hnn⟩ := fields_of_maskF0FF hw
  calc decodeWord k w = decodeF k w := decodeWord_of_familyF (hf.trans hp)
    _ = decodeF false w := decodeF_eq_of_ne (hnn ▸ hkey)
    _ = .ok (instrOf w) := h w hnn

theorem zextByte_toNat (b : Byte) : (zextByte b).toNat = b.toNat :=
  BitVec.toNat_setWidth_of_le (by decide)

theorem onlyIndexChanged_setIndex (s : State) (a : Word) : OnlyIndexChanged s (s.advance.setIndex a) :=
  ⟨fun _ => rfl, fun _ => rfl, ⟨rfl, rfl⟩, fun _ _ => rfl, ⟨rfl, rfl⟩, ⟨rfl, rfl, rfl, rfl, rfl, rfl⟩,
    pcPlus2_toNat s.pc⟩

/-- Settles O17: the 12-bit address is a 16-bit word as it stands. -/
theorem ldILoads : Obligations.LdILoads :=
  ⟨rowDecodes_of_family fun k w hf => by rw [decodeWord, hf]; rfl, fun nnn s =>
    ⟨_, rfl, zextAddr_toNat nnn, onlyIndexChanged_setIndex s _⟩⟩

/-- Settles O18: the sum of two words is the sum modulo 65536. -/
theorem addIWraps : Obligations.AddIWraps := by
  refine ⟨rowDecodes_of_familyF rfl (by decide) fun w hnn => by rw [decodeF, hnn]; rfl, fun x s =>
    ⟨_, rfl, ?_, onlyIndexChanged_setIndex s _⟩⟩
  rw [State.setIndex_i, BitVec.toNat_add, zextByte_toNat]

/-! ## Transfers to memory -/

/-- With the fetch advance and a new memory, the frame is what memory reads outside the set. -/
theorem onlyMemChanged_advance {s : State} {m : Memory} {stored : Nat → Prop}
    (h : MemSameOutside stored s { s.advance with mem := m }) :
    OnlyMemChanged stored s { s.advance with mem := m } :=
  ⟨fun _ => rfl, rfl, h, ⟨rfl, rfl⟩, fun _ _ => rfl, ⟨rfl, rfl⟩, ⟨rfl, rfl, rfl, rfl, rfl, rfl⟩,
    pcPlus2_toNat s.pc⟩

/-- What an instruction that stores `n + 1` bytes from `I` up leaves: the bytes stored, or, where the
last one lies above 4095, the fault (20_memory.md R64, R69). -/
theorem exists_next_of_store {i : Instr} {s : State} {bs : List Byte} {n : Nat}
    (h : exec i s = .next (settle s (s.advance.writeBytes s.base bs))) (hlen : bs.length = n + 1) :
    (s.base + n ≤ 4095 → ∃ t, exec i s = .next t ∧
      (∀ k (hk : k < bs.length), t.byteAt (s.base + k) = bs[k]) ∧
      OnlyMemChanged (fun a => s.base ≤ a ∧ a ≤ s.base + n) s t) ∧
    (4095 < s.base + n → ∃ t, exec i s = .next t ∧ FaultTaken 3#3 s t) := by
  have hne : bs ≠ [] := List.ne_nil_of_length_eq_add_one hlen
  obtain ⟨hok, herr⟩ := State.writeBytes_spec bs s.advance s.base
  constructor
  · intro hin
    obtain ⟨m, hm, hread, -⟩ := hok (.inr (by omega))
    rw [hm, settle_ok] at h
    refine ⟨_, h, fun k hk => ?_, onlyMemChanged_advance fun a ha => ?_⟩
    · refine (hread (s.base + k)).trans ?_
      simp [hk]
    · exact (hread a).trans (dif_neg (by omega))
  · intro hout
    have hfault : ¬ (bs = [] ∨ s.base + bs.length ≤ 4096) := not_or.mpr ⟨hne, by omega⟩
    rw [herr hfault, settle_error] at h
    exact ⟨_, h, faultTaken_takeFault s .memOutOfRange⟩

/-- Settles O19: the three bytes stored are the decimal digits. -/
theorem ldBcdStoresDigits : Obligations.LdBcdStoresDigits := by
  refine ⟨rowDecodes_of_familyF rfl (by decide) fun w hnn => by rw [decodeF, hnn]; rfl, fun x s => ?_⟩
  obtain ⟨hok, hfault⟩ := exists_next_of_store (i := .ldBcd x) (s := s) (n := 2) rfl rfl
  refine ⟨fun hin => ?_, hfault⟩
  obtain ⟨t, ht, hread, hframe⟩ := hok hin
  have hlen : (decimalDigits (s.reg x)).length = 3 := rfl
  have h100 : t.byteAt s.base = BitVec.ofNat 8 ((s.reg x).toNat / 100) := hread 0 (by omega)
  have h10 : t.byteAt (s.base + 1) = BitVec.ofNat 8 ((s.reg x).toNat / 10 % 10) := hread 1 (by omega)
  have h1 : t.byteAt (s.base + 2) = BitVec.ofNat 8 ((s.reg x).toNat % 10) := hread 2 (by omega)
  have hbyte : (s.reg x).toNat < 256 := (s.reg x).isLt
  refine ⟨t, ht, ?_, ?_, ?_, hframe⟩
  · rw [h100, BitVec.toNat_ofNat]; omega
  · rw [h10, BitVec.toNat_ofNat]; omega
  · rw [h1, BitVec.toNat_ofNat]; omega

/-- Settles O20: byte `k` of those stored is `V[k]`. -/
theorem storeRegsStores : Obligations.StoreRegsStores := by
  refine ⟨rowDecodes_of_familyF rfl (by decide) fun w hnn => by rw [decodeF, hnn]; rfl, fun x s => ?_⟩
  have hlen := State.regsThrough_length s x
  obtain ⟨hok, hfault⟩ := exists_next_of_store (i := .storeRegs x) (s := s) rfl hlen
  refine ⟨fun hin => ?_, hfault⟩
  obtain ⟨t, ht, hread, hframe⟩ := hok hin
  refine ⟨t, ht, fun k hk => ?_, hframe⟩
  have hlt : k.toNat < (s.regsThrough x).length := by omega
  exact (hread k.toNat hlt).trans (State.regsThrough_getElem s x k hlt)

/-! ## Transfers from memory -/

theorem exec_loadRegs_of_le {s : State} {x : Nibble} (h : s.base + x.toNat ≤ 4095) :
    ∃ v, exec (.loadRegs x) s = .next { s.advance with v := v } ∧
      ∀ j : Nibble, v[j.toNat]'j.isLt =
        if j.toNat ≤ x.toNat then s.byteAt (s.base + j.toNat) else s.reg j := by
  have hread := State.readBytes_spec s (x.toNat + 1) s.base
  rw [if_pos (.inr (by omega))] at hread
  obtain ⟨v, hs, hv⟩ := State.setRegsFrom_spec
    ((List.range (x.toNat + 1)).map fun k => s.byteAt (s.base + k)) s.advance 0
  refine ⟨v, by rw [exec, execLoadRegs, hread, ← hs]; rfl, fun j => (hv j.toNat j.isLt).trans ?_⟩
  simp [State.reg]

theorem exec_loadRegs_of_gt {s : State} {x : Nibble} (h : 4095 < s.base + x.toNat) :
    exec (.loadRegs x) s = .next (s.takeFault .memOutOfRange) := by
  have hread := State.readBytes_spec s (x.toNat + 1) s.base
  rw [if_neg (by omega)] at hread
  rw [exec, execLoadRegs, hread]; rfl

/-- Settles O21: the registers to `x` read the bytes loaded, the others as before. -/
theorem loadRegsLoads : Obligations.LoadRegsLoads := by
  refine ⟨rowDecodes_of_familyF rfl (by decide) fun w hnn => by rw [decodeF, hnn]; rfl, fun x s =>
    ⟨fun h => ?_, fun h => ?_⟩⟩
  · obtain ⟨v, hexec, hv⟩ := exec_loadRegs_of_le h
    exact ⟨_, hexec, fun k hk => (hv k).trans (if_pos hk),
      onlyRegsChanged_advance fun j hj => (hv j).trans (if_neg hj)⟩
  · exact ⟨_, exec_loadRegs_of_gt h, faultTaken_takeFault s .memOutOfRange⟩

/-- Settles O56: LD Vx, [I] reads the bytes that LD [I], Vx stored. -/
theorem storeThenLoadRestoresRegisters : Obligations.StoreThenLoadRestoresRegisters := by
  intro x s t u hx hstore hmem hi
  have hbase : u.base = s.base := congrArg BitVec.toNat hi
  obtain ⟨v, hload, hread, hregs, -⟩ := (loadRegsLoads.2 x u).1 (hbase ▸ hx)
  refine ⟨v, hload, fun k hk => ?_, hregs⟩
  calc v.reg k = u.byteAt (u.base + k.toNat) := hread k hk
    _ = t.byteAt (s.base + k.toNat) := by rw [hbase, hmem]
    _ = s.reg k := byteAt_of_exec_storeRegs hx hstore hk

end Sys2Proof.Machine
end

section
/-! The display (43_display.md): which pixels a drawing toggles, first for one set bit, then for a sprite
row and a sprite, as hits of steps that share no pixel; from these DRW, two DRW of one form, and CLS; and
which instructions change a pixel. -/

namespace Sys2Proof.Machine

/-! ## Drawings that toggle a set of pixels -/

/-- The drawing `e` is `d` with the pixels of a set toggled, and a collision if one of them was lit
(43_display.md R182). -/
structure Drawing.Toggled (hits : Nat → Nat → Prop) (d e : Drawing) : Prop where
  lit_of_hit {p q : Nat} (h : hits p q) : e.disp.lit p q = !d.disp.lit p q
  lit_of_miss {p q : Nat} (h : ¬ hits p q) : e.disp.lit p q = d.disp.lit p q
  collision_iff : e.collision = true ↔
    d.collision = true ∨ ∃ p q, d.disp.lit p q = true ∧ hits p q

namespace Drawing.Toggled

variable {d e f : Drawing} {hits hits' : Nat → Nat → Prop}

theorem of_iff (h : Toggled hits d e) (hiff : ∀ p q, hits p q ↔ hits' p q) : Toggled hits' d e := by
  have heq : hits = hits' := funext₂ fun p q => propext (hiff p q)
  exact heq ▸ h

theorem of_none (hnone : ∀ p q, ¬ hits p q) : Toggled hits d d where
  lit_of_hit h := absurd h (hnone _ _)
  lit_of_miss _ := rfl
  collision_iff := ⟨.inl, fun h => h.resolve_right fun ⟨p, q, _, hpq⟩ => hnone p q hpq⟩

/-- Two drawings in a row that share no pixel: the second finds its pixels as they were at first. -/
theorem trans (h : Toggled hits d e) (h' : Toggled hits' e f)
    (hdisj : ∀ p q, hits p q → ¬ hits' p q) : Toggled (fun p q => hits p q ∨ hits' p q) d f where
  lit_of_hit := by
    rintro p q (hp | hp)
    · rw [h'.lit_of_miss (hdisj p q hp), h.lit_of_hit hp]
    · rw [h'.lit_of_hit hp, h.lit_of_miss fun hq => hdisj p q hq hp]
  lit_of_miss := by
    intro p q hp
    obtain ⟨h1, h2⟩ := not_or.mp hp
    rw [h'.lit_of_miss h2, h.lit_of_miss h1]
  collision_iff := by
    have hlit : ∀ p q, e.disp.lit p q = true ∧ hits' p q ↔ d.disp.lit p q = true ∧ hits' p q :=
      fun p q => and_congr_left fun hq => by rw [h.lit_of_miss fun hp => hdisj p q hp hq]
    simp only [h'.collision_iff, h.collision_iff, hlit, and_or_left, exists_or, or_assoc]

/-- Steps in a row, no two of which share a pixel, toggle the pixels of all of them. -/
theorem foldl {α : Type} {step : Drawing → α → Drawing} {hitsOf : α → Nat → Nat → Prop} {l : List α}
    (hnodup : l.Nodup) (hstep : ∀ a d, Toggled (hitsOf a) d (step d a))
    (hdisj : ∀ a ∈ l, ∀ b ∈ l, a ≠ b → ∀ p q, hitsOf a p q → ¬ hitsOf b p q) (d : Drawing) :
    Toggled (fun p q => ∃ a ∈ l, hitsOf a p q) d (l.foldl step d) := by
  induction l generalizing d with
  | nil => exact of_none fun p q ⟨a, ha, _⟩ => List.not_mem_nil ha
  | cons a l ih =>
    obtain ⟨hal, hl⟩ := List.nodup_cons.mp hnodup
    have htail := ih hl (fun b hb c hc => hdisj b (.tail a hb) c (.tail a hc)) (step d a)
    refine ((hstep a d).trans htail ?_).of_iff fun p q => by simp
    rintro p q ha ⟨b, hb, hhit⟩
    exact hdisj a List.mem_cons_self b (.tail a hb) (fun hab => hal (hab ▸ hb)) p q ha hhit

end Drawing.Toggled

/-! ## What a sprite hits -/

/-- Whether column `c` of a sprite row has its bit set and lands on a pixel (43_display.md R181). -/
def BitHits (b : Byte) (x0 row c p q : Nat) : Prop :=
  p = row ∧ q = (x0 + c) % 64 ∧ b.getLsbD (7 - c) = true

/-- Whether a set bit of a sprite row lands on a pixel (43_display.md R181). -/
def RowHits (b : Byte) (x0 row p q : Nat) : Prop := ∃ c ∈ List.range 8, BitHits b x0 row c p q

/-- Whether a set bit of the sprite of a DRW lands on a pixel (43_display.md R181). -/
def DrwHits (s : State) (x y n : Nibble) (row col : Nat) : Prop :=
  SpriteHits s n.toNat (s.originColumn x) (s.originRow y) row col

theorem DrwHits.lt {s : State} {x y n : Nibble} {row col : Nat} (h : DrwHits s x y n row col) :
    row < 32 ∧ col < 64 := by
  obtain ⟨r, c, -, -, rfl, rfl, -⟩ := h
  exact ⟨Nat.mod_lt _ (by decide), Nat.mod_lt _ (by decide)⟩

theorem drawPixel_toggled {row col : Nat} (hr : row < 32) (hc : col < 64) (d : Drawing) :
    d.Toggled (fun p q => p = row ∧ q = col) (drawPixel d row col) where
  lit_of_hit h := (drawPixel_lit d row col _ _ hr hc).trans (if_pos h)
  lit_of_miss h := (drawPixel_lit d row col _ _ hr hc).trans (if_neg h)
  collision_iff := by simp

theorem drawBit_toggled {row : Nat} (hr : row < 32) (b : Byte) (x0 c : Nat) (d : Drawing) :
    d.Toggled (BitHits b x0 row c) (drawBit b x0 row d c) := by
  rw [drawBit]
  by_cases hb : b.getLsbD (7 - c) = true
  · rw [if_pos hb]
    exact (drawPixel_toggled hr (Nat.mod_lt _ (by decide)) d).of_iff fun p q => by simp [BitHits, hb]
  · rw [if_neg hb]
    exact .of_none fun p q ⟨_, _, hset⟩ => hb hset

/-- The 8 columns of a sprite row land on 8 columns of the display. -/
theorem drawRow_toggled {row : Nat} (hr : row < 32) (b : Byte) (x0 : Nat) (d : Drawing) :
    d.Toggled (RowHits b x0 row) (drawRow b x0 row d) := by
  refine .foldl List.nodup_range (drawBit_toggled hr b x0) ?_ d
  rintro c hc c' hc' hne p q ⟨-, hq, -⟩ ⟨-, hq', -⟩
  rw [List.mem_range] at hc hc'
  omega

theorem drawRows_eq_foldl (byte : Nat → Byte) (x0 y0 n r : Nat) (d : Drawing) :
    drawRows ((List.range' r n).map byte) x0 y0 r d =
      (List.range' r n).foldl (fun d r => drawRow (byte r) x0 ((y0 + r) % 32) d) d := by
  induction n generalizing r d with
  | zero => rfl
  | succ n ih => exact ih (r + 1) _

/-- The at most 15 rows of a sprite land on as many rows of the display. -/
theorem drawSprite_toggled (s : State) (x y n : Nibble) :
    Drawing.Toggled (DrwHits s x y n) { disp := s.disp, collision := false }
      (drawSprite ((List.range n.toNat).map fun r => s.byteAt (s.base + r)) (s.originColumn x)
        (s.originRow y) s.disp) := by
  rw [drawSprite, List.range_eq_range', drawRows_eq_foldl, ← List.range_eq_range']
  refine (Drawing.Toggled.foldl List.nodup_range
    (fun r d => drawRow_toggled (Nat.mod_lt _ (by decide)) _ _ d) ?_ _).of_iff fun p q => ?_
  · rintro r hr r' hr' hne p q ⟨-, -, hp, -⟩ ⟨-, -, hp', -⟩
    rw [List.mem_range] at hr hr'
    have hn : n.toNat < 16 := n.isLt
    omega
  · simp [DrwHits, SpriteHits, RowHits, BitHits]

/-! ## DRW -/

theorem flagByte_eq_one_iff {c : Bool} : flagByte c = 1#8 ↔ c = true := by cases c <;> decide

theorem State.reg_setDrawing_flag (s : State) (d : Drawing) :
    (s.setDrawing d).reg 0xF#4 = flagByte d.collision :=
  State.reg_setReg_self _ flagReg _

theorem State.reg_setDrawing_of_ne (s : State) (d : Drawing) {j : Nibble} (hj : j ≠ 0xF#4) :
    (s.setDrawing d).reg j = s.reg j :=
  (State.reg_setFlag _ j _).trans (if_neg hj)

/-- DRW with its sprite in memory draws the sprite (43_display.md R182). -/
theorem exec_drw_of_le {s : State} {x y n : Nibble} (h : n = 0#4 ∨ s.base + n.toNat ≤ 4096) :
    ∃ d, exec (.drw x y n) s = .next (s.advance.setDrawing d) ∧
      Drawing.Toggled (DrwHits s x y n) { disp := s.disp, collision := false } d := by
  refine ⟨_, ?_, drawSprite_toggled s x y n⟩
  have hin : n.toNat = 0 ∨ s.base + n.toNat ≤ 4096 := h.imp_left (congrArg BitVec.toNat)
  rw [exec, execDrw, State.readBytes_spec, if_pos hin]
  rfl

theorem exec_drw_of_gt {s : State} {x y n : Nibble} (hn : n ≠ 0#4) (h : 4096 < s.base + n.toNat) :
    exec (.drw x y n) s = .next (s.takeFault .memOutOfRange) := by
  have hout : ¬ (n.toNat = 0 ∨ s.base + n.toNat ≤ 4096) :=
    not_or.mpr ⟨fun h0 => hn (BitVec.eq_of_toNat_eq h0), h.not_ge⟩
  rw [exec, execDrw, State.readBytes_spec, if_neg hout]
  rfl

/-- Settles O23: the drawing toggles what the sprite hits, and VF holds its collision. -/
theorem drwTogglesSpritePixels : Obligations.DrwTogglesSpritePixels := by
  refine ⟨rowDecodes_of_family fun k w hf => by rw [decodeWord, hf]; rfl, fun x y n s =>
    ⟨fun h => ?_, fun ⟨hn, h⟩ => ⟨_, exec_drw_of_gt hn h, faultTaken_takeFault s .memOutOfRange⟩⟩⟩
  obtain ⟨d, hexec, hd⟩ := exec_drw_of_le (x := x) (y := y) h
  refine ⟨_, hexec, fun row col _ _ => ⟨hd.lit_of_hit, hd.lit_of_miss⟩, ?_, fun hnone => ?_,
    fun j hj => State.reg_setDrawing_of_ne _ d hj, rfl, fun _ => rfl, ⟨rfl, rfl⟩, ⟨rfl, rfl⟩,
    ⟨rfl, rfl, rfl, rfl, rfl, rfl⟩, pcPlus2_toNat s.pc⟩
  · rintro ⟨row, col, -, -, hlit, hhit⟩
    rw [State.reg_setDrawing_flag, hd.collision_iff.mpr (.inr ⟨row, col, hlit, hhit⟩)]
    rfl
  · have hdark : d.collision = false := by
      refine Bool.eq_false_iff.mpr fun hc => ?_
      obtain ⟨row, col, hlit, hhit⟩ := (hd.collision_iff.mp hc).resolve_left Bool.false_ne_true
      exact hnone row col hhit.lt.1 hhit.lt.2 hlit hhit
    rw [State.reg_setDrawing_flag, hdark]
    rfl

/-- A drawing leaves what a DRW reads as it was, its coordinates unless they stand in VF. -/
theorem drwHits_setDrawing (s : State) (d : Drawing) {x y : Nibble} (n : Nibble) (hx : x ≠ 0xF#4)
    (hy : y ≠ 0xF#4) : DrwHits (s.advance.setDrawing d) x y n = DrwHits s x y n := by
  funext row col
  rw [DrwHits, State.originColumn, State.originRow, State.reg_setDrawing_of_ne _ d hx,
    State.reg_setDrawing_of_ne _ d hy]
  rfl

/-- Settles O24: the second DRW toggles the same pixels, and those it finds lit were dark. -/
theorem drawTwiceRestoresDisplay : Obligations.DrawTwiceRestoresDisplay := by
  intro x y n s t u hx hy hin ht hu
  obtain ⟨d, hs, hd⟩ := exec_drw_of_le (x := x) (y := y) (.inr hin)
  cases hs.symm.trans ht
  obtain ⟨e, hs', he⟩ := exec_drw_of_le (s := s.advance.setDrawing d) (x := x) (y := y) (.inr hin)
  cases hs'.symm.trans hu
  rw [drwHits_setDrawing s d n hx hy] at he
  refine ⟨fun row col _ _ => ?_, ?_, ?_⟩
  · by_cases hhit : DrwHits s x y n row col
    · exact (he.lit_of_hit hhit).trans ((congrArg _ (hd.lit_of_hit hhit)).trans (Bool.not_not _))
    · exact (he.lit_of_miss hhit).trans (hd.lit_of_miss hhit)
  · rw [State.reg_setDrawing_flag]
    exact flagByte_le_one e.collision
  · rw [State.reg_setDrawing_flag, flagByte_eq_one_iff, he.collision_iff]
    constructor
    · intro hc
      obtain ⟨row, col, hlit, hhit⟩ := hc.resolve_left Bool.false_ne_true
      have hdark : (!s.pixel row col) = true := (hd.lit_of_hit hhit).symm.trans hlit
      exact ⟨row, col, hhit.lt.1, hhit.lt.2, (Bool.not_eq_true' _).mp hdark, hhit⟩
    · rintro ⟨row, col, -, -, hdark, hhit⟩
      exact .inr ⟨row, col, (hd.lit_of_hit hhit).trans ((Bool.not_eq_true' _).mpr hdark), hhit⟩

/-! ## CLS -/

/-- Settles O22: CLS writes the display and `pc`. -/
theorem clsClearsDisplay : Obligations.ClsClearsDisplay := by
  refine ⟨fun k w hw => ?_, fun s => ⟨_, rfl, fun r c _ _ => Display.lit_dark r c, fun _ => rfl, rfl,
    fun _ => rfl, ⟨rfl, rfl⟩, ⟨rfl, rfl⟩, ⟨rfl, rfl, rfl, rfl, rfl, rfl⟩, pcPlus2_toNat s.pc⟩⟩
  obtain ⟨hf, hnn⟩ := fields_of_maskF0FF hw
  rw [decodeWord_of_family0 hf, decode0, hnn]
  rfl

/-! ## Where the display changes -/

/-- The display is written by CLS and DRW only, and not with a fault (43_display.md R184). -/
theorem ExecEffect.pixel_eq {i : Instr} {s t : State} (he : ExecEffect i s t) (row col : Nat) :
    t.pixel row col = s.pixel row col ∨
      ((i = .cls ∨ ∃ x y n, i = .drw x y n) ∧ t.faultCode = s.faultCode) := by
  cases he with
  | clear hi => exact .inr ⟨.inl hi, rfl⟩
  | draw x y n d hi => exact .inr ⟨.inr ⟨x, y, n, hi⟩, rfl⟩
  | store bs t hi ht =>
    obtain ⟨m, rfl, -⟩ := State.writeBytes_onlyMem ht
    exact .inl rfl
  | fault | control | registers | index | jump | ret | call | waitKey | takeKey => exact .inl rfl

/-- Settles O48: of the four ways a step can go, only a decoded CLS or DRW writes the display. -/
theorem onlyDisplayWritersChangeDisplay : Obligations.OnlyDisplayWritersChangeDisplay := by
  intro s t row col h hne
  obtain ⟨-, hs⟩ | ⟨-, f, -, hs⟩ | ⟨-, w, e, -, -, hs⟩ | ⟨hi, w, i, hf, hd, hs⟩ := step_cases s
  · cases hs.symm.trans h
    exact absurd rfl hne
  · cases hs.symm.trans h
    exact absurd rfl hne
  · cases hs.symm.trans h
    exact absurd rfl hne
  · obtain ⟨u, hu, he⟩ := exec_effect i s
    have hstep : step s = .next u.consumeInput := by rw [hs, hu]; rfl
    cases hstep.symm.trans h
    obtain ⟨hwriter, hfault⟩ := (he.pixel_eq row col).resolve_left hne
    have hdone : u.faultCode = 0#3 := hfault.trans (s.idle_eq_false_iff.mp hi).1
    refine ⟨w, i, hf, hd, hwriter, ?_⟩
    rw [stepStatus_of_step hi hstep]
    exact if_neg (not_not.mpr hdone)

end Sys2Proof.Machine
end

section
/-! Key input (44_input.md): the rows that `KEY_OPS` gates, when a key is pressed, what LD Vx, K answers
with and without a key, and from these the three instructions. -/

namespace Sys2Proof.Machine

variable {s : State}

/-! ## Rows -/

/-- A gated row selects the words of its `nn` in its family with `KEY_OPS` true, and the family's decoder
refuses those words with `KEY_OPS` false (30_encoding.md R93, 44_input.md R200). -/
theorem keyRowDecodes_of_family {p : Word} {instrOf : Word → Instr} {error : Word → DecodeError}
    {decode : Bool → Word → Except DecodeError Instr}
    (hfamily : ∀ k w, fieldFamily w = fieldFamily p → decodeWord k w = decode k w)
    (hon : ∀ w, fieldNN w = fieldNN p → decode true w = .ok (instrOf w))
    (hoff : ∀ w, fieldNN w = fieldNN p → decode false w = .error (error w)) :
    KeyRowDecodes p 0xF0FF#16 instrOf := by
  intro w hw
  obtain ⟨hf, hnn⟩ := fields_of_maskF0FF hw
  refine ⟨(hfamily true w hf).trans (hon w hnn), fun i hi => ?_⟩
  have herror : decodeWord false w = .error (error w) := (hfamily false w hf).trans (hoff w hnn)
  cases herror.symm.trans hi

/-! ## SKP and SKNP -/

theorem zextKey_toNat (k : Nibble) : (zextKey k).toNat = k.toNat :=
  BitVec.toNat_setWidth_of_le (by decide)

/-- The comparison is of all 8 bits of `V[x]` (44_input.md R201). -/
theorem keyPressed_eq_true_iff {x : Nibble} :
    s.keyPressed x = true ↔ ∃ k, s.key = some k ∧ k.toNat = (s.reg x).toNat := by
  rw [State.keyPressed]
  cases s.key with
  | none => simp only [Bool.false_eq_true, reduceCtorEq, false_and, exists_false]
  | some k =>
    simp only [Option.some_inj, exists_eq_left', beq_iff_eq]
    rw [← BitVec.toNat_inj, zextKey_toNat]

/-- Without a key, none is pressed (44_input.md R202). -/
theorem keyPressed_eq_false_iff {x : Nibble} :
    s.keyPressed x = false ↔ ∀ k, s.key = some k → k.toNat ≠ (s.reg x).toNat := by
  rw [← Bool.not_eq_true, keyPressed_eq_true_iff, not_exists]
  exact forall_congr' fun _ => not_and

/-- Settles O25: SKP skips on the pressed key, SKNP on its negation. -/
theorem keySkips : Obligations.KeySkips :=
  ⟨keyRowDecodes_of_family (fun _ _ => decodeWord_of_familyE)
      (fun w hnn => by rw [decodeE, hnn]; rfl) (fun _ _ => rfl),
    keyRowDecodes_of_family (fun _ _ => decodeWord_of_familyE)
      (fun w hnn => by rw [decodeE, hnn]; rfl) (fun _ _ => rfl), fun _ _ =>
    ⟨exists_next_of_skipIf rfl keyPressed_eq_true_iff.mpr keyPressed_eq_false_iff.mpr,
      exists_next_of_skipIf rfl (fun h => congrArg not (keyPressed_eq_false_iff.mpr h))
        (fun h => congrArg not (keyPressed_eq_true_iff.mpr h))⟩⟩

/-! ## LD Vx, K -/

theorem exec_ldKey_of_none (x : Nibble) (h : s.key = none) :
    exec (.ldKey x) s = .next { s.setPc s.pc with waitingForInput := true } := by
  rw [exec, execLdKey, h]

theorem exec_ldKey_of_some (x : Nibble) {k : Nibble} (h : s.key = some k) :
    exec (.ldKey x) s = .next { s.advance.setReg x (zextKey k) with waitingForInput := false } := by
  rw [exec, execLdKey, h]

/-- Settles O26: waiting is the frame of an instruction that writes only `pc`, taking the key that of
one that writes `V[x]`, each but for `waiting_for_input`. -/
theorem ldKeyWaitsOrTakes : Obligations.LdKeyWaitsOrTakes := by
  refine ⟨keyRowDecodes_of_family (fun _ _ => decodeWord_of_familyF)
    (fun w hnn => by rw [decodeF, hnn]; rfl) (fun w hnn => by rw [decodeF, hnn]; rfl),
    fun x s => ⟨fun h => ?_, fun k h => ?_⟩⟩
  · obtain ⟨hregs, hi, hmem, hstack, hdisp, ⟨hhalted, -⟩, hhost⟩ := onlyPcChanged_setPc s s.pc
    exact ⟨_, exec_ldKey_of_none x h, rfl, rfl, hregs, hi, hmem, hstack, hdisp, hhalted, hhost⟩
  · obtain ⟨hregs, hi, hmem, hstack, hdisp, ⟨hhalted, -⟩, hhost, hpc⟩ :=
      onlyRegsChanged_setReg s x (zextKey k)
    have hkey : ((s.advance.setReg x (zextKey k)).reg x).toNat = k.toNat := by
      rw [State.reg_setReg_self, zextKey_toNat]
    exact ⟨_, exec_ldKey_of_some x h, hkey, rfl, hregs, hi, hmem, hstack, hdisp, hhalted, hhost, hpc⟩

end Sys2Proof.Machine
end

section
/-! Exceptions (60_exceptions.md): what a run of STEPs does from a stopped block, and that a STEP which
changes the fault code is a fault entry and nothing more. -/

namespace Sys2Proof.Machine

variable {s t : State}

/-! ## Stopped blocks -/

theorem run_succ_of_step {M : Host.Core} {u v : M.State} (h : M.step u = .next v) (k : Nat) :
    M.run (k + 1) u = M.run k v := by
  rw [Host.Core.run, h]

/-- Settles O35, by induction on the number of STEPs: passing an input by leaves the block stopped. -/
theorem stoppedBlockStaysStopped : Obligations.StoppedBlockStaysStopped := by
  intro s k hi
  induction k generalizing s with
  | zero => rfl
  | succ k ih =>
    have hidle : s.consumeInput.idle = true := hi
    have hstep : core.step s = .next s.consumeInput := step_of_idle hi
    rw [run_succ_of_step hstep, ih s.consumeInput hidle, State.consumeInput_inputs,
      State.consumeInput_inputIndex, List.drop_tail, Nat.add_assoc, Nat.add_comm 1 k]
    rfl

/-- Settles O37, by the four ways of a STEP. -/
theorem everyStepAnswersNext : Obligations.EveryStepAnswersNext := step_answers_next

/-! ## Fault entry -/

/-- The fault code is written by fault entry only (60_exceptions.md R212). -/
theorem ExecEffect.faultCode_eq {i : Instr} (he : ExecEffect i s t) :
    t.faultCode = s.faultCode ∨ ∃ f, t = s.takeFault f := by
  cases he with
  | fault f => exact .inr ⟨f, rfl⟩
  | store bs t hi ht =>
    obtain ⟨m, rfl, -⟩ := State.writeBytes_onlyMem ht
    exact .inl rfl
  | control | registers | clear | draw | index | jump | ret | call | waitKey | takeKey =>
    exact .inl rfl

/-- A STEP that changes the fault code is a running block's fault entry, from the state in which the STEP
began, its inputs passed by (60_exceptions.md R212). -/
theorem exists_takeFault_of_step (h : step s = .next t) (hne : t.faultCode ≠ s.faultCode) :
    s.idle = false ∧ ∃ f, t = s.consumeInput.takeFault f := by
  obtain ⟨-, hs⟩ | ⟨hi, f, -, hs⟩ | ⟨-, w, e, -, -, hs⟩ | ⟨hi, w, i, -, -, hs⟩ := step_cases s
  all_goals rw [hs] at h
  · cases h
    exact absurd rfl hne
  · cases h
    exact ⟨hi, f, rfl⟩
  · cases h
    exact absurd rfl hne
  · obtain ⟨u, hu, he⟩ := exec_effect i s
    rw [hu] at h
    cases h
    obtain ⟨f, rfl⟩ := he.faultCode_eq.resolve_left hne
    exact ⟨hi, f, rfl⟩

/-- Settles O38: the step is a fault entry, whose code is 1 to 5. -/
theorem faultsArePrecise : Obligations.FaultsArePrecise := by
  intro s t h hne
  obtain ⟨hi, f, rfl⟩ := exists_takeFault_of_step h hne
  obtain ⟨hf, -⟩ := s.idle_eq_false_iff.mp hi
  obtain ⟨hlo, hhi⟩ := f.code_range
  have hst : stepStatus s = .fault := by
    rw [stepStatus_of_step hi h, if_pos (hf ▸ hne)]
  exact ⟨hi, hst, hlo, hhi, faultTaken_takeFault s.consumeInput f⟩

end Sys2Proof.Machine
end

section
/-! LOAD, and the block before any LOAD (70_reset_and_hazards.md): an image that ends in memory is
written as a transfer of its bytes would write it; a reset block reads the no-op 0x0000 wherever its
`pc` has come to. -/

namespace Sys2Proof.Machine

/-! ## LOAD -/

/-- An image that ends in memory is written as the transfer of its bytes to memory, which does not
fault (70_reset_and_hazards.md R243, 20_memory.md R64). -/
theorem State.writeBytes_eq_writeImage (image : List Byte) :
    ∀ (s : State) (a : Nat), a + image.length ≤ memSize →
      s.writeBytes a image = .ok (s.writeImage a image) := by
  induction image with
  | nil => exact fun _ _ _ => rfl
  | cons b bs ih =>
    intro s a h
    rw [List.length_cons] at h
    rw [State.writeBytes, State.memWrite, if_pos (by omega)]
    exact ih (s.setByte a b) (a + 1) (by omega)

theorem load_of_le {image : List Byte} (s : State) (h : image.length ≤ 3584) :
    load image s = (.ok, ((s.writeImage 512 image).setPc 512#16).clearStops) :=
  if_pos h

/-- Settles O42: the length test fails. -/
theorem loadRefusesLargeImage : Obligations.LoadRefusesLargeImage :=
  fun _ _ h => if_neg (Nat.not_le_of_lt h)

/-- Settles O41, from the transfer of the image's bytes to 512, which writes memory alone. -/
theorem loadWritesImage : Obligations.LoadWritesImage := by
  intro image s hlen
  have hwrite : s.writeBytes 512 image = .ok (s.writeImage 512 image) :=
    State.writeBytes_eq_writeImage image s 512 (Nat.add_le_add_left hlen 512)
  have hread := State.byteAt_of_writeBytes hwrite
  have hload := load_of_le s hlen
  obtain ⟨m, hm, -⟩ := State.writeBytes_onlyMem hwrite
  rw [hm] at hread hload
  refine ⟨_, hload, fun k hk => ?_, fun a ha => ?_, rfl, rfl, rfl, rfl, rfl, fun _ => rfl, rfl,
    ⟨rfl, rfl⟩, fun _ _ => rfl, rfl, rfl, rfl, rfl⟩
  · refine (hread (512 + k)).trans ?_
    simp [hk]
  · exact (hread a).trans (dif_neg (by omega))

/-! ## Before any LOAD -/

/-- The block `k` STEPs after reset, no image loaded (70_reset_and_hazards.md R247). -/
def State.resetThenNoOps (p : Params) (k : Nat) : State :=
  { State.resetWith p with pc := BitVec.ofNat 16 ((512 + 2 * k) % 4096), inputIndex := k }

theorem State.resetThenNoOps_pc_toNat (p : Params) (k : Nat) :
    (State.resetThenNoOps p k).pc.toNat = (512 + 2 * k) % 4096 :=
  Nat.mod_eq_of_lt (by omega)

/-- An even `pc` below 4096 is never 4095, so the fetch does not fault, and memory at reset
reads zero. -/
theorem State.fetchWord_resetThenNoOps (p : Params) (k : Nat) :
    (State.resetThenNoOps p k).fetchWord = .ok 0x0000#16 := by
  have hzero : ∀ a, (State.resetThenNoOps p k).byteAt a = 0#8 := fun _ => rfl
  rw [State.fetchWord_of_lt (by rw [State.resetThenNoOps_pc_toNat]; omega), hzero, hzero]
  rfl

theorem State.noOp_consumeInput_resetThenNoOps (p : Params) (k : Nat) :
    (State.resetThenNoOps p k).noOp.consumeInput = State.resetThenNoOps p (k + 1) := by
  have hpc : pcPlus2 (State.resetThenNoOps p k).pc = (State.resetThenNoOps p (k + 1)).pc := by
    apply BitVec.eq_of_toNat_eq
    rw [pcPlus2_toNat, State.resetThenNoOps_pc_toNat, State.resetThenNoOps_pc_toNat]
    omega
  rw [State.noOp, State.advance, hpc]
  rfl

/-- 0x0000 is unrecognized whatever `KEY_OPS` is, so the STEP is a no-op (30_encoding.md R101). -/
theorem step_resetThenNoOps (p : Params) (k : Nat) :
    step (State.resetThenNoOps p k) = .next (State.resetThenNoOps p (k + 1)) := by
  have hd : decodeWord p.keyOps 0x0000#16 = .error (.unassigned0 0x0000#16) := rfl
  rw [step_of_unrecognized rfl (State.fetchWord_resetThenNoOps p k) hd,
    State.noOp_consumeInput_resetThenNoOps]

theorem run_resetThenNoOps (p : Params) (j k : Nat) :
    core.run k (State.resetThenNoOps p j) = .next (State.resetThenNoOps p (j + k)) := by
  induction k generalizing j with
  | zero => rfl
  | succ k ih =>
    have hstep : core.step (State.resetThenNoOps p j) = .next (State.resetThenNoOps p (j + 1)) :=
      step_resetThenNoOps p j
    rw [run_succ_of_step hstep, ih, Nat.add_assoc, Nat.add_comm 1 k]

/-- Settles O44: the reset state is the one no STEP has moved. -/
theorem stepsWithoutLoad : Obligations.StepsWithoutLoad := by
  intro p k
  have hrun := run_resetThenNoOps p 0 k
  rw [Nat.zero_add] at hrun
  exact hrun

end Sys2Proof.Machine
end
